-- ==== Sys2Proof/Syntax.lean ====
section
/-! DEFINITION. The nine commands of the block, one constructor per row of spec/opcode_table.json
(30_encoding.md R61). A command has no operand field (R60): every operand is implicit (10_state.md R11). -/

namespace Sys2Proof

/-- The commands, in the order of their operation codes 0x0 to 0x8 (30_encoding.md R61). -/
inductive Instr where
  /-- 0x00, no operation (46_control.md R150). -/
  | nop
  /-- 0x01, SYM_IN to FT (40_count.md R80). -/
  | count
  /-- 0x02, FT to TREE (41_build.md R90). -/
  | build
  /-- 0x03, TREE to CT (42_codes.md R100). -/
  | codes
  /-- 0x04, SYM_IN and CT to BIT_OUT (43_encode.md R110). -/
  | encode
  /-- 0x05, BIT_IN and TREE to SYM_OUT (44_decode.md R120). -/
  | decode
  /-- 0x06, TREE to TS_OUT (45_serialize.md R131). -/
  | serialize
  /-- 0x07, TS_IN to TREE and TSPOS (45_serialize.md R135). -/
  | deserialize
  /-- 0x08, back to the reset state (46_control.md R152). -/
  | clear
  deriving DecidableEq, Repr

end Sys2Proof
end

