-- ==== Sys2Proof/Word.lean ====
section
/-! DEFINITION. The element types of the block (00_scope.md R7, 20_memory.md R41, R42): bytes, symbols and bits.
Counts, lengths and indices are plain natural numbers (00_scope.md R6, R9). -/

namespace Sys2Proof

/-- A byte, an integer 0..255 (R7): an element of SYM_IN, TS_IN, SYM_OUT and TS_OUT, a command word, a symbol. -/
abbrev Byte := BitVec 8

/-- A bit, an integer 0 or 1 (R7): an element of BIT_IN, BIT_OUT and of a code. `false` is 0 and `true` is 1. -/
abbrev Bit := Bool

end Sys2Proof
end

