-- ==== Sys2Proof/WellFormed.lean ====
section
/-! DEFINITION. Well-formedness. A command carries no operand (30_encoding.md R60), so no term of `Instr` can be
ill formed; what can be ill formed is a command word, and its two checks are the ones R61 and R63 give. -/

namespace Sys2Proof

/-- Every command is well formed: R60 gives it no operand, register or immediate field to check. -/
def Instr.wellFormed (_ : Instr) : Bool := true

/-- The first check of R61 on a word: the reserved field RSV, bits [7:4], is 0b0000. -/
def wordRsvZero (w : Byte) : Bool := w.extractLsb' 4 4 == 0#4

/-- The second check of R61 and R63: the field OP, bits [3:0], is one of the nine defined codes 0x0 to 0x8. -/
def wordOpDefined (w : Byte) : Bool := decide ((w.extractLsb' 0 4).toNat ≤ 8)

/-- A command word is defined when both checks hold; the other 247 words are reserved (R63). -/
def wordWellFormed (w : Byte) : Bool := wordRsvZero w && wordOpDefined w

end Sys2Proof
end

