-- ==== Sys2Proof/Decode.lean ====
section
/-! DEFINITION. The command word, format CMD8 (30_encoding.md R60, R61, R63, R65): the decoder, total on any bytes and
rejecting by name, then the encoder. -/

namespace Sys2Proof

/-- Why a word is no command. A reserved word is no stop of the machine: writing it to CMD raises IllegalCommand
(30_encoding.md R63, 60_exceptions.md R168). -/
inductive DecodeError where
  /-- Bits [7:4] are not 0b0000 (R60, R63): words 0x10 to 0xFF. -/
  | reservedRsv
  /-- RSV is 0 and OP is 0x9 to 0xF (R63): words 0x09 to 0x0F. -/
  | reservedOp
  /-- There is no byte to decode (a command word is exactly 8 bits, R65). -/
  | noWord
  deriving DecidableEq, Repr

/-- The reserved field of a command word, bits [7:4] (R60). -/
def cmdRsv (w : Byte) : BitVec 4 := w.extractLsb' 4 4

/-- The operation code of a command word, bits [3:0] (R60). -/
def cmdOp (w : Byte) : BitVec 4 := w.extractLsb' 0 4

/-- The row of R61 an operation code selects. -/
def decodeOp (op : BitVec 4) : Except DecodeError Instr :=
  match op.toNat with
  | 0 => .ok .nop
  | 1 => .ok .count
  | 2 => .ok .build
  | 3 => .ok .codes
  | 4 => .ok .encode
  | 5 => .ok .decode
  | 6 => .ok .serialize
  | 7 => .ok .deserialize
  | 8 => .ok .clear
  | _ => .error .reservedOp

/-- The decoder of R61: require RSV = 0, then select the row by OP. -/
def decode (w : Byte) : Except DecodeError Instr :=
  if cmdRsv w = 0#4 then decodeOp (cmdOp w) else .error .reservedRsv

/-- The decoder on any list of bytes: one command is one byte (R65), and the rest is handed back. -/
def decodeBytes : List Byte → Except DecodeError (Instr × List Byte)
  | [] => .error .noWord
  | w :: rest =>
    match decode w with
    | .ok i => .ok (i, rest)
    | .error e => .error e

/-- The word of a command (R61's column "word"). -/
def encode : Instr → Byte
  | .nop => 0x00#8
  | .count => 0x01#8
  | .build => 0x02#8
  | .codes => 0x03#8
  | .encode => 0x04#8
  | .decode => 0x05#8
  | .serialize => 0x06#8
  | .deserialize => 0x07#8
  | .clear => 0x08#8

/-- The byte at index `k` of an instruction whose bits are `w`, bit 0 being the least significant bit of the first
byte and every bit from `nbits` up being 0. -/
def tableByte (nbits w k : Nat) : Byte := BitVec.ofNat 8 (w % 2 ^ nbits / 2 ^ (8 * k))

/-- What the decoder reads from an instruction whose bits are `w`, numbered as spec/opcode_table.json numbers them.
The longest command is one byte (R65), so the one byte laid out is the first. -/
def decodeTableWord (nbits w : Nat) : Option Instr :=
  match decodeBytes [tableByte nbits w 0] with
  | .ok (i, _) => some i
  | .error _ => none

end Sys2Proof
end

