-- ==== Sys2Proof/Config.lean ====
section
/-! DEFINITION. What no rule of the spec fixes, as constants with no body: every statement about them holds whatever
they are. The parameters FREQ_BITS, SYM_CAP, BIT_CAP, TS_CAP and NODE_CAP (00_scope.md R6) are taken at the spec's own
choice, unbounded, and so appear nowhere (log entry 1). -/

namespace Sys2Proof.Config

/-- Element `i` of SYM_IN that the host has not written since the last reset or CLEAR, number `epoch`
(70_reset_and_hazards.md R190: the element storage is left unspecified; R196: COUNT "counts whatever is there").
A free value: log entry 2. -/
opaque unwrittenSymIn : (epoch : Nat) → (i : Nat) → Byte

/-- Element `i` of BIT_IN that the host has not written since reset or CLEAR number `epoch`. A free value: log entry 2. -/
opaque unwrittenBitIn : (epoch : Nat) → (i : Nat) → Bit

/-- Element `i` of TS_IN that the host has not written since reset or CLEAR number `epoch`. A free value: log entry 2. -/
opaque unwrittenTsIn : (epoch : Nat) → (i : Nat) → Byte

/-- What the host reads from a byte buffer at or beyond its length, on its read number `n`
(20_memory.md R46; 93_implementation_defined.md U7: any value). A free value: log entry 3. -/
opaque freeReadByte : (n : Nat) → Byte

/-- What the host reads from a bit buffer at or beyond its length, on its read number `n` (R46, U7).
A free value: log entry 3. -/
opaque freeReadBit : (n : Nat) → Bit

end Sys2Proof.Config
end

