-- ==== Sys2Proof/Machine/State.lean ====
section
/-! DEFINITION. The state of the block as plain data (10_state.md), the types it is made of, the reasons a step may
stop, and the reset state (10_state.md R33, 70_reset_and_hazards.md R190). -/

namespace Sys2Proof.Machine

/-- A strict binary tree (00_scope.md R7; 10_state.md R15 (a) to (c)): exactly the values that the TREE register can hold. -/
inductive Tree where
  | leaf (sym : Byte) (freq : Nat)
  | internal (freq : Nat) (left right : Tree)
  deriving DecidableEq, Repr

/-- A table with one entry per symbol 0..255 (FT, 10_state.md R12; CT, R16). -/
abbrev Table (α : Type) := Vector α 256

/-- Element storage addressed by index, as (index, element) pairs in the one canonical form `Memory.wf`: indices strictly
rising. An index that is not listed holds no written value. `Memory Byte` is a list of `Host.Cell`. -/
abbrev Memory (α : Type) := List (Nat × α)

/-- An input stream buffer: the elements the host wrote, and the length register (10_state.md R18, R25). The host writes
elements first and the length after them (70_reset_and_hazards.md R195), so storage reaches beyond the length. -/
structure InBuf (α : Type) where
  cells : Memory α
  len : Nat
  deriving DecidableEq, Repr

/-- The error kinds a command can raise (60_exceptions.md R160, R161, R168). -/
inductive ErrorKind where
  /-- The tree string ends mid-parse or holds an unrecognized tag (R163). -/
  | malformedTree
  /-- The bit sequence does not correspond to the tree (R164). -/
  | malformedEncoding
  /-- A breach of a contract the host owes (R165). -/
  | contractViolation
  /-- A reserved word was written to CMD (R168). -/
  | illegalCommand
  deriving DecidableEq, Repr

/-- The three flags of STATUS (10_state.md R21). -/
inductive StatusFlag where
  | done
  | err
  | empty
  deriving DecidableEq, Repr

/-- One element of one of the nine address spaces of 20_memory.md R40: the target of a host read. -/
inductive ReadTarget where
  | reg (n : Nat)
  | ft (s : Byte)
  | ct (s : Byte)
  | symIn (i : Nat)
  | bitIn (i : Nat)
  | tsIn (i : Nat)
  | symOut (i : Nat)
  | bitOut (i : Nat)
  | tsOut (i : Nat)
  deriving DecidableEq, Repr

/-- What a host read gives: a register or count, a byte, a bit, or an entry of CT (valid bit and code). -/
inductive ReadValue where
  | nat (v : Nat)
  | byte (v : Byte)
  | bit (v : Bit)
  | entry (valid : Bit) (code : List Bit)
  deriving DecidableEq, Repr

/-- One access or event from outside the block (10_state.md R35, 70_reset_and_hazards.md R190, R212). -/
inductive HostAction where
  /-- Write `v` to the register of number `n` (R19). A write to register 0, CMD, issues a command (R20). -/
  | writeReg (n v : Nat)
  /-- Write element `i` of SYM_IN. -/
  | writeSymIn (i : Nat) (v : Byte)
  /-- Write element `i` of BIT_IN. -/
  | writeBitIn (i : Nat) (v : Bit)
  /-- Write element `i` of TS_IN. -/
  | writeTsIn (i : Nat) (v : Byte)
  /-- Write `FT[s]`. -/
  | writeFt (s : Byte) (v : Nat)
  /-- Write `CT[s]`, which has no effect (R35). -/
  | writeCt (s : Byte) (valid : Bit) (code : List Bit)
  /-- Read one element. -/
  | read (r : ReadTarget)
  /-- The reset event (R190). -/
  | reset
  deriving DecidableEq, Repr

/-- What the host still has to do: a run is a finite list of host actions (70_reset_and_hazards.md R211) with the host
conditional of 30_encoding.md R66, `if STATUS.EMPTY then … else …`, among them. -/
inductive HostProgram where
  /-- The host's list has ended (R211). -/
  | ended
  /-- One action, then the rest of the list. -/
  | act (a : HostAction) (rest : HostProgram)
  /-- Go on with `yes` when the flag is 1, else with `no`. -/
  | branch (f : StatusFlag) (yes no : HostProgram)
  deriving DecidableEq, Repr

/-- The machine never stops with a fault: the spec's errors are recorded in STATUS, ERRCODE and ERRINFO by a step that
has a next state (60_exceptions.md R170), and "there is no stuck state and no hang" (70_reset_and_hazards.md R211).
So there is no constructor: nobody raises one, which is safe and unsafe for nothing. -/
inductive Fault where
  deriving DecidableEq, Repr

/-- The reasons a step has no meaning. -/
inductive Refusal where
  /-- Raised by `exec` alone, for an instruction that has no meaning yet. Safe: nothing can be proved of it. No arm
  raises it: every command has its meaning. -/
  | notModelled (mnemonic : String)
  deriving DecidableEq, Repr

/-- The state of the block between two transitions (10_state.md R10), then three fields that are the model's own
(`host`, `seen`, `epoch`). The working state of a command (PQ, SEQ, CUR, POS, PATH: R26 to R29) lives only inside the
one atomic transition and is a local variable of its meaning. CMD is not stored (R20). -/
structure State where
  /-- FT, 256 natural numbers (R12). -/
  ft : Table Nat
  /-- TREE: `none` is NULL (R14). -/
  tree : Option Tree
  /-- CT (R16): `none` is `(0, [])`, `some c` is `(1, c)`; an invalid entry has no code but the empty one. -/
  ct : Table (Option (List Bit))
  /-- SYM_IN and SYM_IN_LEN, register 5 (R18, R25). -/
  symIn : InBuf Byte
  /-- BIT_IN and BIT_IN_LEN, register 6. -/
  bitIn : InBuf Bit
  /-- TS_IN and TS_IN_LEN, register 7. -/
  tsIn : InBuf Byte
  /-- SYM_OUT; SYM_OUT_LEN, register 8, is its length: elements beyond it are not part of the state (20_memory.md R44). -/
  symOut : List Byte
  /-- BIT_OUT; BIT_OUT_LEN, register 9, is its length. -/
  bitOut : List Bit
  /-- TS_OUT; TS_OUT_LEN, register 10, is its length. -/
  tsOut : List Byte
  /-- STATUS, register 1 (R21): DONE bit 0, ERR bit 1, EMPTY bit 2, bits [7:3] reserved. -/
  status : BitVec 8
  /-- ERRCODE, register 2 (R22). -/
  errcode : BitVec 8
  /-- ERRINFO, register 3 (R23). -/
  errinfo : Nat
  /-- TSPOS, register 4 (R24). -/
  tspos : Nat
  /-- The model's own: what the host still has to do, which the step takes in order (20_memory.md R49). -/
  host : HostProgram
  /-- The model's own: what the host has read so far, oldest first. No command reads it. -/
  seen : List ReadValue
  /-- The model's own: how many times reset or CLEAR has left the element storage of the input buffers unspecified. -/
  epoch : Nat
  deriving DecidableEq, Repr

/-- The state after reset (10_state.md R33, 70_reset_and_hazards.md R190), with no host action waiting. -/
def State.reset : State where
  ft := Vector.replicate 256 0
  tree := none
  ct := Vector.replicate 256 none
  symIn := { cells := [], len := 0 }
  bitIn := { cells := [], len := 0 }
  tsIn := { cells := [], len := 0 }
  symOut := []
  bitOut := []
  tsOut := []
  status := 0#8
  errcode := 0#8
  errinfo := 0
  tspos := 0
  host := .ended
  seen := []
  epoch := 0

end Sys2Proof.Machine
end

