-- ==== Sys2Proof/Machine/Flags.lean ====
section
/-! DEFINITION. STATUS, register 1 (10_state.md R21): the place of each flag, its reading and its writing. The block has
no other flag; EMPTY is its only condition flag. -/

namespace Sys2Proof.Machine

/-- The bit of STATUS that holds a flag (R21). -/
def flagBit : StatusFlag → Nat
  | .done => 0
  | .err => 1
  | .empty => 2

/-- STATUS with one flag written and every other bit as it was. -/
def statusWrite (v : BitVec 8) (f : StatusFlag) (b : Bool) : BitVec 8 :=
  if b then v ||| (1#8 <<< flagBit f) else v &&& ~~~(1#8 <<< flagBit f)

/-- A flag of STATUS, as the host's conditional reads it (30_encoding.md R66). -/
def State.flag (s : State) (f : StatusFlag) : Bool := s.status.getLsbD (flagBit f)

/-- STATUS.DONE: the last issued command was accepted and completed without error. -/
def State.done (s : State) : Bool := s.flag .done

/-- STATUS.ERR: an error has been raised and not yet cleared. -/
def State.err (s : State) : Bool := s.flag .err

/-- STATUS.EMPTY: the last COUNT or DESERIALIZE saw a zero-length input. -/
def State.empty (s : State) : Bool := s.flag .empty

/-- Write one flag of STATUS. -/
def State.setFlag (s : State) (f : StatusFlag) (b : Bool) : State :=
  { s with status := statusWrite s.status f b }

/-- The rule of EMPTY in COUNT and DESERIALIZE (R21; 40_count.md R80; 45_serialize.md R135): 1 exactly when the
length of the input is 0. -/
def State.setEmptyOf (s : State) (len : Nat) : State := s.setFlag .empty (len == 0)

end Sys2Proof.Machine
end

