-- ==== Sys2Proof/Machine/Ops.lean ====
section
/-! DEFINITION. The shared operations: element storage and tables, error entry (60_exceptions.md R170, the block's form
of taking an exception), the acceptance of a command (30_encoding.md R62), and the return from an error, which is the
clearing of CLEAR (46_control.md R152, 60_exceptions.md R173). -/

namespace Sys2Proof.Machine

/-! ### Element storage -/

/-- The written value at an index, if there is one. -/
def Memory.read? {α : Type} : Memory α → Nat → Option α
  | [], _ => none
  | (b, w) :: rest, a => if a = b then some w else Memory.read? rest a

/-- Write one element, keeping the indices strictly rising. -/
def Memory.write {α : Type} : Memory α → Nat → α → Memory α
  | [], a, v => [(a, v)]
  | (b, w) :: rest, a, v =>
    if a < b then (a, v) :: (b, w) :: rest
    else if a = b then (a, v) :: rest
    else (b, w) :: Memory.write rest a v

/-- The canonical form: indices strictly rising. An unlisted index holds no written value, so that no entry can equal
what an unlisted index holds. -/
def Memory.wf {α : Type} : Memory α → Bool
  | [] => true
  | [_] => true
  | (a, _) :: (b, w) :: rest => decide (a < b) && Memory.wf ((b, w) :: rest)

/-! ### Tables of one entry per symbol -/

/-- `T[s]` (00_scope.md R7). -/
def Table.get {α : Type} (t : Table α) (s : Byte) : α := t[s.toNat]'s.isLt

/-- `T[s] <- v` (00_scope.md R7). -/
def Table.put {α : Type} (t : Table α) (s : Byte) (v : α) : Table α := t.set s.toNat v s.isLt

/-- The table with `v` at every symbol. -/
def Table.fill {α : Type} (v : α) : Table α := Vector.replicate 256 v

/-- The symbols 0..255 in ascending order (00_scope.md R7). -/
def allSymbols : List Byte := (List.range 256).map (BitVec.ofNat 8)

/-! ### Error entry -/

/-- ERRCODE of an error kind (60_exceptions.md R161). -/
def ErrorKind.code : ErrorKind → BitVec 8
  | .malformedTree => 1#8
  | .malformedEncoding => 2#8
  | .contractViolation => 3#8
  | .illegalCommand => 4#8

/-- Error entry (60_exceptions.md R170): ERRCODE and ERRINFO are written, ERR is set and DONE cleared, and the three
output lengths become 0. Nothing else is written. -/
def State.errorEntry (s : State) (k : ErrorKind) (info : Nat) : State :=
  { ((s.setFlag .err true).setFlag .done false) with
    errcode := k.code
    errinfo := info
    symOut := []
    bitOut := []
    tsOut := [] }

/-! ### The acceptance of a command -/

/-- How the rule of a command ends: without `raise`, or with `raise kind(info)` at the state its pseudocode has reached. -/
inductive Ending where
  | completed (s : State)
  | raised (kind : ErrorKind) (info : Nat) (s : State)
  deriving DecidableEq, Repr

/-- The end of an accepted command: DONE <- 1 if nothing was raised (30_encoding.md R62 step 5), else error entry. -/
def Ending.state : Ending → State
  | .completed s => s.setFlag .done true
  | .raised kind info s => s.errorEntry kind info

/-- Steps 2, 4 and 5 of 30_encoding.md R62: DONE <- 0, the rule of the command, then its end. -/
def acceptAlways (body : State → Ending) (s : State) : Host.Outcome State Fault Refusal :=
  .next (body (s.setFlag .done false)).state

/-- Steps 1 to 5 of 30_encoding.md R62 for every word but 0x08: while ERR = 1 the write is ignored and no state changes
at all (60_exceptions.md R172). -/
def accept (body : State → Ending) (s : State) : Host.Outcome State Fault Refusal :=
  match s.err with
  | true => .next s
  | false => acceptAlways body s

/-- A write of a reserved word (30_encoding.md R62 step 3, R63; 60_exceptions.md R168): IllegalCommand with ERRINFO = the
word, unless the sticky error makes the write ignored (step 1 comes first, 60_exceptions.md R175). -/
def illegalCommand (w : Byte) (s : State) : Host.Outcome State Fault Refusal :=
  accept (fun s => .raised .illegalCommand w.toNat s) s

/-! ### The return from an error, and reset -/

/-- What CLEAR writes (46_control.md R152): every piece of state the spec gives takes its reset value, ERR and EMPTY
among them; DONE is written at the end of the command. The element storage of the input buffers is left unspecified,
as after reset (log entry 2), so a new epoch of it begins. The host's own fields stay. -/
def State.clearAll (s : State) : State :=
  { ((s.setFlag .err false).setFlag .empty false) with
    ft := Table.fill 0
    tree := none
    ct := Table.fill none
    symIn := { cells := [], len := 0 }
    bitIn := { cells := [], len := 0 }
    tsIn := { cells := [], len := 0 }
    symOut := []
    bitOut := []
    tsOut := []
    errcode := 0#8
    errinfo := 0
    tspos := 0
    epoch := s.epoch + 1 }

/-- The reset event (70_reset_and_hazards.md R190): every piece of state the spec gives takes the value of
`State.reset`, in every state and whatever STATUS says. What the host still has to do and has seen is the host's. -/
def State.resetEvent (s : State) : State :=
  { State.reset with host := s.host, seen := s.seen, epoch := s.epoch + 1 }

/-- One outcome after another: go on from a next state, stop at a fault or a refusal. -/
def andThen {σ τ : Type} (o : Host.Outcome σ Fault Refusal) (k : σ → Host.Outcome τ Fault Refusal) :
    Host.Outcome τ Fault Refusal :=
  match o with
  | .next s => k s
  | .fault r => .fault r
  | .refused r => .refused r

end Sys2Proof.Machine
end

