-- ==== Sys2Proof/Machine/Operands.lean ====
section
/-! DEFINITION. The implicit operands of the commands (10_state.md R11, R31): the input sequences (20_memory.md R45),
the output writes (R44), the code table's invalidation (10_state.md R16), and the vocabulary of trees
(00_scope.md R7) in which the rules speak of TREE. -/

namespace Sys2Proof.Machine

/-! ### Input reads -/

/-- `MemRead(SYM_IN, i)` (20_memory.md R45): element `i` as the host last wrote it; a free value if it has not
written it since reset or CLEAR. -/
def State.symInAt (s : State) (i : Nat) : Byte := (Memory.read? s.symIn.cells i).getD (Config.unwrittenSymIn s.epoch i)

/-- `MemRead(BIT_IN, i)` (R45). -/
def State.bitInAt (s : State) (i : Nat) : Bit := (Memory.read? s.bitIn.cells i).getD (Config.unwrittenBitIn s.epoch i)

/-- `MemRead(TS_IN, i)` (R45). -/
def State.tsInAt (s : State) (i : Nat) : Byte := (Memory.read? s.tsIn.cells i).getD (Config.unwrittenTsIn s.epoch i)

/-- The sequence in SYM_IN: elements 0 to SYM_IN_LEN - 1. -/
def State.symInSeq (s : State) : List Byte := (List.range s.symIn.len).map s.symInAt

/-- The sequence in BIT_IN: elements 0 to BIT_IN_LEN - 1. -/
def State.bitInSeq (s : State) : List Bit := (List.range s.bitIn.len).map s.bitInAt

/-- The sequence in TS_IN: elements 0 to TS_IN_LEN - 1. -/
def State.tsInSeq (s : State) : List Byte := (List.range s.tsIn.len).map s.tsInAt

/-! ### Output writes and tables -/

/-- `SYM_OUT <- out` (20_memory.md R44): the whole previous content and its length are replaced. -/
def State.writeSymOut (s : State) (out : List Byte) : State := { s with symOut := out }

/-- `BIT_OUT <- out` (R44). -/
def State.writeBitOut (s : State) (out : List Bit) : State := { s with bitOut := out }

/-- `TS_OUT <- out` (R44). -/
def State.writeTsOut (s : State) (out : List Byte) : State := { s with tsOut := out }

/-- FT, all entries (40_count.md R80). -/
def State.writeFt (s : State) (ft : Table Nat) : State := { s with ft := ft }

/-- TREE (41_build.md R90, 45_serialize.md R135). -/
def State.writeTree (s : State) (t : Option Tree) : State := { s with tree := t }

/-- CT, all entries (42_codes.md R100). -/
def State.writeCt (s : State) (ct : Table (Option (List Bit))) : State := { s with ct := ct }

/-- TSPOS (45_serialize.md R135). -/
def State.writeTspos (s : State) (n : Nat) : State := { s with tspos := n }

/-- The invalid code table: `CT[s] = (0, [])` for every symbol (10_state.md R16). -/
def noCodes : Table (Option (List Bit)) := Table.fill none

/-- `for s in 0..255: CT[s] <- (0, [])` (10_state.md R16). -/
def State.invalidateCt (s : State) : State := s.writeCt noCodes

/-! ### The vocabulary of trees -/

/-- `isLeaf(t)` (00_scope.md R7). -/
def Tree.isLeaf : Tree → Bool
  | .leaf _ _ => true
  | .internal _ _ _ => false

/-- `freq(t)` of either kind of node (00_scope.md R7). -/
def Tree.freq : Tree → Nat
  | .leaf _ f => f
  | .internal f _ _ => f

/-- `leaves(t)`: the symbols of the leaves from left to right (00_scope.md R7). -/
def Tree.leaves : Tree → List Byte
  | .leaf s _ => [s]
  | .internal _ l r => l.leaves ++ r.leaves

/-- The number of nodes of a tree (41_build.md R92). -/
def Tree.nodes : Tree → Nat
  | .leaf _ _ => 1
  | .internal _ l r => l.nodes + r.nodes + 1

/-- The child a bit selects, 0 for `left` and 1 for `right` (30_encoding.md R73); a leaf has no child. -/
def Tree.child : Tree → Bit → Option Tree
  | .leaf _ _, _ => none
  | .internal _ l r, b => some (if b then r else l)

/-- The subtree at the end of a path from the root, if the path stays inside the tree. -/
def Tree.subtree : Tree → List Bit → Option Tree
  | t, [] => some t
  | t, b :: p =>
    match t with
    | .leaf _ _ => none
    | .internal _ l r => if b then r.subtree p else l.subtree p

/-- The symbol of the leaf at the end of a path from the root, if there is a leaf (42_codes.md R102). -/
def Tree.symAt (t : Tree) (p : List Bit) : Option Byte :=
  match t.subtree p with
  | some (.leaf s _) => some s
  | _ => none

/-- The sentinel frequency of every node DESERIALIZE makes (45_serialize.md R136). -/
def sentinelFreq : Nat := 0

/-- The same shape and leaf symbols, with every frequency at the sentinel (45_serialize.md R141). -/
def Tree.unweighted : Tree → Tree
  | .leaf s _ => .leaf s sentinelFreq
  | .internal _ l r => .internal sentinelFreq l.unweighted r.unweighted

/-- The tag byte of a leaf, the ASCII code of `L` (30_encoding.md R69). -/
def tagL : Byte := 0x4C#8

/-- The tag byte of an internal node, the ASCII code of `I` (30_encoding.md R69). -/
def tagI : Byte := 0x49#8

end Sys2Proof.Machine
end

