-- ==== Sys2Proof/Machine/Builder.lean ====
section
/-! DEFINITION. BUILD, the priority-queue merge engine that builds the Huffman tree (41_build.md R90 to R99). -/

namespace Sys2Proof.Machine

/-- An element of PQ (10_state.md R26): a node and the sequence number that SEQ handed out for it. Its key is the pair
of the node's frequency and that number. -/
structure QueueEntry where
  seq : Nat
  node : Tree
  deriving DecidableEq, Repr

/-- The order of keys (41_build.md R93): smaller frequency first, then smaller sequence number. -/
def keyLt (a b : QueueEntry) : Bool :=
  decide (a.node.freq < b.node.freq) || (a.node.freq == b.node.freq && decide (a.seq < b.seq))

/-- Take the element with the smallest key out of PQ, and give what is left of PQ (R90, R93). PQ is a set: the place of
an element in the list says nothing. -/
def extractMin : List QueueEntry → Option (QueueEntry × List QueueEntry)
  | [] => none
  | e :: rest =>
    match extractMin rest with
    | none => some (e, [])
    | some (m, rest') => if keyLt m e then some (m, e :: rest') else some (e, m :: rest')

/-- The leaves that enter PQ, in ascending symbol order, one per symbol with a count above 0, with sequence numbers from
`seq` up (R90, R92). -/
def leafEntries (ft : Table Nat) : List Byte → Nat → List QueueEntry
  | [], _ => []
  | s :: rest, seq =>
    if 0 < Table.get ft s then
      { seq := seq, node := .leaf s (Table.get ft s) } :: leafEntries ft rest (seq + 1)
    else leafEntries ft rest seq

/-- Two extracted nodes combined: the first extracted is `left`, and the frequency is the sum (R90, R94). -/
def combine (a b : Tree) : Tree := .internal (a.freq + b.freq) a b

/-- `while |PQ| > 1` (R90), with SEQ handed on. `fuel` bounds the runs of the loop: each run makes PQ smaller by one, so
the size of PQ at the start is enough (`mergeLoop_isSome` in Laws). The result is the last node, or none for an empty PQ. -/
def mergeLoop : Nat → Nat → List QueueEntry → Option Tree
  | 0, _, _ => none
  | fuel + 1, seq, pq =>
    match extractMin pq with
    | none => none
    | some (a, pq1) =>
      match extractMin pq1 with
      | none => some a.node
      | some (b, pq2) => mergeLoop fuel (seq + 1) ({ seq := seq, node := combine a.node b.node } :: pq2)

/-- The tree of a frequency table: none exactly when every entry is 0 (R90, R91). A function of FT alone (R97). -/
def buildTree (ft : Table Nat) : Option Tree :=
  let pq := leafEntries ft allSymbols 0
  mergeLoop pq.length pq.length pq

/-- `FT[s] = 0 for every s in 0..255` (R90). -/
def allZero (ft : Table Nat) : Bool := allSymbols.all fun s => Table.get ft s == 0

/-- The rule of BUILD (R90): CT is invalidated; an all-zero table leaves TREE = NULL and raises ContractViolation(0)
(R91); otherwise TREE is the merged tree. -/
def buildBody (s : State) : Ending :=
  match allZero s.ft with
  | true => .raised .contractViolation 0 (s.invalidateCt.writeTree none)
  | false => .completed (s.invalidateCt.writeTree (buildTree s.ft))

/-- BUILD (41_build.md R90), accepted by 30_encoding.md R62. -/
def execBuild (s : State) : Host.Outcome State Fault Refusal :=
  accept buildBody s

end Sys2Proof.Machine
end

