-- ==== Sys2Proof/Machine/CodeTable.lean ====
section
/-! DEFINITION. CODES, the prefix-code table generator (42_codes.md R100 to R107). -/

namespace Sys2Proof.Machine

/-- `walk(t, path)` (R100): a leaf records PATH, 0 for `left` and 1 for `right`; the second leaf with one symbol raises,
with that symbol (R105). -/
def walk : Tree → List Bit → Table (Option (List Bit)) → Except Byte (Table (Option (List Bit)))
  | .leaf s _, path, ct =>
    match Table.get ct s with
    | some _ => .error s
    | none => .ok (Table.put ct s (some path))
  | .internal _ l r, path, ct =>
    match walk l (path ++ [false]) ct with
    | .error s => .error s
    | .ok ct' => walk r (path ++ [true]) ct'

/-- The code table of a tree: a lone leaf gets the code `[0]` (R103), any other tree is walked from the root with the
empty path (R102). -/
def codeTable : Tree → Except Byte (Table (Option (List Bit)))
  | .leaf s _ => .ok (Table.put noCodes s (some [false]))
  | .internal f l r => walk (.internal f l r) [] noCodes

/-- The rule of CODES (R100): the absent tree raises ContractViolation(0) (R101), a repeated symbol
ContractViolation(symbol) (R105); either leaves every entry invalid. -/
def codesBody (s : State) : Ending :=
  match s.tree with
  | none => .raised .contractViolation 0 s.invalidateCt
  | some t =>
    match codeTable t with
    | .error sym => .raised .contractViolation sym.toNat s.invalidateCt
    | .ok ct => .completed (s.writeCt ct)

/-- CODES (42_codes.md R100), accepted by 30_encoding.md R62. -/
def execCodes (s : State) : Host.Outcome State Fault Refusal :=
  accept codesBody s

end Sys2Proof.Machine
end

