-- ==== Sys2Proof/Machine/Codec.lean ====
section
/-! DEFINITION. ENCODE, the table-driven bit-stream encoder (43_encode.md R110 to R116), and DECODE, the tree-walk
decoder (44_decode.md R120 to R129). -/

namespace Sys2Proof.Machine

/-- The loop of ENCODE from index `i` (R110): the codes in input order, or the first index whose symbol has no code
(R113). -/
def encodeSeq (ct : Table (Option (List Bit))) : Nat → List Byte → Except Nat (List Bit)
  | _, [] => .ok []
  | i, s :: rest =>
    match Table.get ct s with
    | none => .error i
    | some code =>
      match encodeSeq ct (i + 1) rest with
      | .error e => .error e
      | .ok out => .ok (code ++ out)

/-- The rule of ENCODE (R110). -/
def encodeBody (s : State) : Ending :=
  match encodeSeq s.ct 0 s.symInSeq with
  | .error i => .raised .contractViolation i s
  | .ok out => .completed (s.writeBitOut out)

/-- ENCODE (43_encode.md R110), accepted by 30_encoding.md R62. -/
def execEncode (s : State) : Host.Outcome State Fault Refusal :=
  accept encodeBody s

/-- DECODE against a single-leaf tree from index `i` (R123): each bit 0 is one `sym`, and the first bit 1 raises. -/
def decodeLone (sym : Byte) : Nat → List Bit → Except Nat (List Byte)
  | _, [] => .ok []
  | i, b :: rest =>
    if b then .error i
    else
      match decodeLone sym (i + 1) rest with
      | .error e => .error e
      | .ok out => .ok (sym :: out)

/-- DECODE against a larger tree from index `i` with the cursor CUR at `cur` (R120): the bit selects a child; a leaf is
emitted and the cursor reset to the root. A missing child raises with the index of the bit (R125, never met from an
internal node); an input that ends off the root raises with its length (R124). -/
def decodeWalk (root : Tree) : Nat → Tree → List Bit → Except Nat (List Byte)
  | i, cur, [] => if cur = root then .ok [] else .error i
  | i, cur, b :: rest =>
    match Tree.child cur b with
    | none => .error i
    | some (.leaf sym _) =>
      match decodeWalk root (i + 1) root rest with
      | .error e => .error e
      | .ok out => .ok (sym :: out)
    | some (.internal f l r) => decodeWalk root (i + 1) (.internal f l r) rest

/-- The decoder of a bit sequence against a tree (R120). -/
def decodeSeq : Tree → List Bit → Except Nat (List Byte)
  | .leaf sym _, bits => decodeLone sym 0 bits
  | .internal f l r, bits => decodeWalk (.internal f l r) 0 (.internal f l r) bits

/-- The rule of DECODE (R120): the absent tree raises ContractViolation(0) whatever BIT_IN holds (R121). -/
def decodeBody (s : State) : Ending :=
  match s.tree with
  | none => .raised .contractViolation 0 s
  | some t =>
    match decodeSeq t s.bitInSeq with
    | .error i => .raised .malformedEncoding i s
    | .ok out => .completed (s.writeSymOut out)

/-- DECODE (44_decode.md R120), accepted by 30_encoding.md R62. -/
def execDecode (s : State) : Host.Outcome State Fault Refusal :=
  accept decodeBody s

end Sys2Proof.Machine
end

