-- ==== Sys2Proof/Machine/Control.lean ====
section
/-! DEFINITION. NOP and CLEAR (46_control.md R150 to R153). -/

namespace Sys2Proof.Machine

/-- NOP (46_control.md R150): no state change but DONE <- 1; ignored while ERR = 1 (R151). -/
def execNop (s : State) : Host.Outcome State Fault Refusal :=
  accept (fun s => .completed s) s

/-- CLEAR (46_control.md R152): back to the reset state with DONE = 1. The only command accepted while ERR = 1 (R153). -/
def execClear (s : State) : Host.Outcome State Fault Refusal :=
  acceptAlways (fun s => .completed s.clearAll) s

end Sys2Proof.Machine
end

