-- ==== Sys2Proof/Machine/Counter.lean ====
section
/-! DEFINITION. COUNT, the frequency counter (40_count.md R80 to R84). -/

namespace Sys2Proof.Machine

/-- `FT[s] <- FT[s] + 1` for each symbol of a sequence in turn (R80). -/
def countInto (ft : Table Nat) : List Byte → Table Nat
  | [] => ft
  | s :: rest => countInto (Table.put ft s (Table.get ft s + 1)) rest

/-- The rule of COUNT (R80): the table starts from zero at every entry, and EMPTY says whether the input was empty
(R82). COUNT raises nothing (R81). -/
def countBody (s : State) : Ending :=
  .completed ((s.writeFt (countInto (Table.fill 0) s.symInSeq)).setEmptyOf s.symIn.len)

/-- COUNT (40_count.md R80), accepted by 30_encoding.md R62. -/
def execCount (s : State) : Host.Outcome State Fault Refusal :=
  accept countBody s

end Sys2Proof.Machine
end

