-- ==== Sys2Proof/Machine/Serializer.lean ====
section
/-! DEFINITION. SERIALIZE and DESERIALIZE, the tree serializer (45_serialize.md R130 to R142) over the one grammar of
30_encoding.md R68. -/

namespace Sys2Proof.Machine

/-- `ser(t)` of a tree (R131): preorder, the `left` subtree wholly before the `right`, no frequencies. -/
def serializeTree : Tree → List Byte
  | .leaf s _ => [tagL, s]
  | .internal _ l r => tagI :: (serializeTree l ++ serializeTree r)

/-- `ser` of the register (R131): the absent tree is the empty string (R132). -/
def serialize : Option Tree → List Byte
  | none => []
  | some t => serializeTree t

/-- The rule of SERIALIZE (R131). It raises nothing. -/
def serializeBody (s : State) : Ending :=
  .completed (s.writeTsOut (serialize s.tree))

/-- SERIALIZE (45_serialize.md R131), accepted by 30_encoding.md R62. -/
def execSerialize (s : State) : Host.Outcome State Fault Refusal :=
  accept serializeBody s

/-- `parse()` (R135) with POS at `pos` and the bytes of TS_IN from POS on: the tree, the new POS and the bytes from it on,
or the ERRINFO of MalformedTree (R137, R140). `fuel` bounds the depth of the recursion: each level reads a tag first, so
one more than the bytes left is enough, and more of it changes nothing (`parse_fuel` in Laws). -/
def parse : Nat → Nat → List Byte → Except Nat (Tree × Nat × List Byte)
  | 0, pos, _ => .error pos
  | _ + 1, pos, [] => .error pos
  | fuel + 1, pos, tag :: rest =>
    if tag = tagL then
      match rest with
      | [] => .error (pos + 1)
      | s :: rest' => .ok (.leaf s sentinelFreq, pos + 2, rest')
    else if tag = tagI then
      match parse fuel (pos + 1) rest with
      | .error e => .error e
      | .ok (l, pos1, rest1) =>
        match parse fuel pos1 rest1 with
        | .error e => .error e
        | .ok (r, pos2, rest2) => .ok (.internal sentinelFreq l r, pos2, rest2)
    else .error pos

/-- The tree a string begins with and the number of bytes it takes, or the ERRINFO of MalformedTree (R135). Bytes after
the tree are not read (R138). -/
def parseString (str : List Byte) : Except Nat (Tree × Nat) :=
  match parse (str.length + 1) 0 str with
  | .error e => .error e
  | .ok (t, pos, _) => .ok (t, pos)

/-- What DESERIALIZE writes before it reads a byte (R135): CT invalid, TREE NULL, TSPOS 0, and EMPTY. -/
def State.startDeserialize (s : State) : State :=
  ((s.invalidateCt.writeTree none).writeTspos 0).setEmptyOf s.tsIn.len

/-- The rule of DESERIALIZE (R135): the empty string is the absent tree and no error (30_encoding.md R71). -/
def deserializeBody (s : State) : Ending :=
  match s.tsIn.len with
  | 0 => .completed s.startDeserialize
  | _ + 1 =>
    match parseString s.tsInSeq with
    | .error pos => .raised .malformedTree pos s.startDeserialize
    | .ok (t, pos) => .completed ((s.startDeserialize.writeTree (some t)).writeTspos pos)

/-- DESERIALIZE (45_serialize.md R135), accepted by 30_encoding.md R62. -/
def execDeserialize (s : State) : Host.Outcome State Fault Refusal :=
  accept deserializeBody s

end Sys2Proof.Machine
end

