-- ==== Sys2Proof/Machine/Dispatch.lean ====
section
/-! DEFINITION. One arm per command (30_encoding.md R61), each one direct call of its meaning. -/

namespace Sys2Proof.Machine

/-- A command issued in a state (30_encoding.md R62): the whole atomic transition (20_memory.md R49). -/
def exec (i : Instr) (s : State) : Host.Outcome State Fault Refusal :=
  match i with
  | .nop => Sys2Proof.Machine.execNop s
  | .count => Sys2Proof.Machine.execCount s
  | .build => Sys2Proof.Machine.execBuild s
  | .codes => Sys2Proof.Machine.execCodes s
  | .encode => Sys2Proof.Machine.execEncode s
  | .decode => Sys2Proof.Machine.execDecode s
  | .serialize => Sys2Proof.Machine.execSerialize s
  | .deserialize => Sys2Proof.Machine.execDeserialize s
  | .clear => Sys2Proof.Machine.execClear s

end Sys2Proof.Machine
end

