-- ==== Sys2Proof/Machine/HostPort.lean ====
section
/-! DEFINITION. The host's accesses (10_state.md R19, R20, R35; 20_memory.md R40, R46, R47; 70_reset_and_hazards.md
R212): the register file, the two tables, the six buffers, the command register and the reset event, and the taking of
the next of them. -/

namespace Sys2Proof.Machine

/-- A write of `w` to CMD (10_state.md R20, 30_encoding.md R62): a defined word is its command, a reserved word is
IllegalCommand. -/
def issue (w : Byte) (s : State) : Host.Outcome State Fault Refusal :=
  match decode w with
  | .ok i => exec i s
  | .error _ => illegalCommand w s

/-- A host write of a register (R19). CMD issues a command and takes the low 8 bits of the value, its width; the three
input lengths are written; the other registers are read only and a number above 10 is no register, so such a write
has no effect (R19, R35). -/
def writeRegister (n v : Nat) (s : State) : Host.Outcome State Fault Refusal :=
  match n with
  | 0 => issue (BitVec.ofNat 8 v) s
  | 5 => .next { s with symIn := { s.symIn with len := v } }
  | 6 => .next { s with bitIn := { s.bitIn with len := v } }
  | 7 => .next { s with tsIn := { s.tsIn with len := v } }
  | _ => .next s

/-- A host read of a register (R19): CMD reads 0, and so does a number above 10 (93_implementation_defined.md U11). -/
def State.readRegister (s : State) (n : Nat) : Nat :=
  match n with
  | 1 => s.status.toNat
  | 2 => s.errcode.toNat
  | 3 => s.errinfo
  | 4 => s.tspos
  | 5 => s.symIn.len
  | 6 => s.bitIn.len
  | 7 => s.tsIn.len
  | 8 => s.symOut.length
  | 9 => s.bitOut.length
  | 10 => s.tsOut.length
  | _ => 0

/-- The valid bit and the code of an entry of CT, as the host reads them (R16): an invalid entry reads `(0, [])`. -/
def entryRead : Option (List Bit) → ReadValue
  | none => .entry false []
  | some code => .entry true code

/-- A host read of one element (R35, R40, R46, R212): below a buffer's length the element; at or beyond it any value
(93_implementation_defined.md U7), a free value of its own for each read. -/
def State.hostRead (s : State) : ReadTarget → ReadValue
  | .reg n => .nat (s.readRegister n)
  | .ft sym => .nat (Table.get s.ft sym)
  | .ct sym => entryRead (Table.get s.ct sym)
  | .symIn i => .byte (if i < s.symIn.len then s.symInAt i else Config.freeReadByte s.seen.length)
  | .bitIn i => .bit (if i < s.bitIn.len then s.bitInAt i else Config.freeReadBit s.seen.length)
  | .tsIn i => .byte (if i < s.tsIn.len then s.tsInAt i else Config.freeReadByte s.seen.length)
  | .symOut i => .byte (s.symOut[i]?.getD (Config.freeReadByte s.seen.length))
  | .bitOut i => .bit (s.bitOut[i]?.getD (Config.freeReadBit s.seen.length))
  | .tsOut i => .byte (s.tsOut[i]?.getD (Config.freeReadByte s.seen.length))

/-- One access or event from outside (R212). Reads have no side effect on the block (20_memory.md R47). -/
def hostMove (a : HostAction) (s : State) : Host.Outcome State Fault Refusal :=
  match a with
  | .writeReg n v => writeRegister n v s
  | .writeSymIn i v => .next { s with symIn := { s.symIn with cells := Memory.write s.symIn.cells i v } }
  | .writeBitIn i v => .next { s with bitIn := { s.bitIn with cells := Memory.write s.bitIn.cells i v } }
  | .writeTsIn i v => .next { s with tsIn := { s.tsIn with cells := Memory.write s.tsIn.cells i v } }
  | .writeFt sym v => .next { s with ft := Table.put s.ft sym v }
  | .writeCt _ _ _ => .next s
  | .read r => .next { s with seen := s.seen ++ [s.hostRead r] }
  | .reset => .next s.resetEvent

/-- The host takes its next move, and goes on from there (20_memory.md R49; 30_encoding.md R66). With its list ended
nothing happens: the core does nothing until the host writes CMD (70_reset_and_hazards.md R191, R211). -/
def hostStep (s : State) : Host.Outcome State Fault Refusal :=
  match s.host with
  | .ended => .next s
  | .act a rest => hostMove a { s with host := rest }
  | .branch f yes no => .next { s with host := if s.flag f then yes else no }

/-- The host's program with a write of the command word `w` put before it. -/
def issueFirst (w : Byte) (p : HostProgram) : HostProgram := .act (.writeReg 0 w.toNat) p

end Sys2Proof.Machine
end

