-- ==== Sys2Proof/Machine/Step.lean ====
section
/-! DEFINITION. One step: the host's next action, with the whole command it issues if it issues one. The block fetches
nothing (10_state.md R13); the order of the commands is the order of the host's writes (20_memory.md R49). -/

namespace Sys2Proof.Machine

/-- One step of the block and its host. -/
def step (s : State) : Host.Outcome State Fault Refusal := hostStep s

/-- The state whose very next step writes to CMD the instruction whose bits are `w` (numbered as
spec/opcode_table.json numbers them), after which the host goes on as it would have (log entry 5). -/
def State.withFetchWord (s : State) (nbits w : Nat) : State :=
  { s with host := issueFirst (tableByte nbits w 0) s.host }

end Sys2Proof.Machine
end

