-- ==== Sys2Proof/Machine/HostSeq.lean ====
section
/-! DEFINITION. The pseudo-instructions COMPRESS and DECOMPRESS (30_encoding.md R67, 46_control.md R154 to R156): the
two fixed host sequences, made of host moves alone. -/

namespace Sys2Proof.Machine

/-- Host moves one after another. -/
def hostMoves : List HostAction → State → Host.Outcome State Fault Refusal
  | [], s => .next s
  | a :: rest, s => andThen (hostMove a s) (hostMoves rest)

/-- The move that issues a command: a write of its word to CMD (10_state.md R20). -/
def command (i : Instr) : HostAction := .writeReg 0 (encode i).toNat

/-- The element writes of a load from index `i` up. -/
def elementWrites {α : Type} (write : Nat → α → HostAction) : Nat → List α → List HostAction
  | _, [] => []
  | i, v :: rest => write i v :: elementWrites write (i + 1) rest

/-- `SYM_IN <- b` (30_encoding.md R66): the elements, then the length (70_reset_and_hazards.md R195). -/
def loadSymIn (b : List Byte) : List HostAction := elementWrites .writeSymIn 0 b ++ [.writeReg 5 b.length]

/-- `BIT_IN <- p` (R66, R195). -/
def loadBitIn (p : List Bit) : List HostAction := elementWrites .writeBitIn 0 p ++ [.writeReg 6 p.length]

/-- `TS_IN <- t` (R66, R195). -/
def loadTsIn (t : List Byte) : List HostAction := elementWrites .writeTsIn 0 t ++ [.writeReg 7 t.length]

/-- What COMPRESS returns (46_control.md R154). -/
inductive CompressResult where
  | emptyInput
  | pair (treeString : List Byte) (bitString : List Bit)
  | error (errcode : BitVec 8) (errinfo : Nat)
  deriving DecidableEq, Repr

/-- What DECOMPRESS returns (46_control.md R155). -/
inductive DecompressResult where
  | emptyInput
  | bytes (out : List Byte)
  | error (errcode : BitVec 8) (errinfo : Nat)
  deriving DecidableEq, Repr

/-- CLEAR, then return a result that was read before it (70_reset_and_hazards.md R204). -/
def clearAndReturn {τ : Type} (result : τ) (s : State) : Host.Outcome (State × τ) Fault Refusal :=
  andThen (hostMoves [command .clear] s) fun s' => .next (s', result)

/-- COMPRESS (46_control.md R154). -/
def compress (b : List Byte) (s : State) : Host.Outcome (State × CompressResult) Fault Refusal :=
  andThen (hostMoves (loadSymIn b ++ [command .count]) s) fun s1 =>
    if s1.empty then clearAndReturn .emptyInput s1
    else
      andThen (hostMoves [command .build, command .codes, command .encode, command .serialize] s1) fun s2 =>
        if s2.err then clearAndReturn (.error s2.errcode s2.errinfo) s2
        else clearAndReturn (.pair s2.tsOut s2.bitOut) s2

/-- DECOMPRESS (46_control.md R155). An empty tree string beside a non-empty bit-string is reported by the host itself
as MalformedEncoding with ERRINFO 0 (R156). -/
def decompress (t : List Byte) (p : List Bit) (s : State) : Host.Outcome (State × DecompressResult) Fault Refusal :=
  andThen (hostMoves (loadTsIn t ++ loadBitIn p ++ [command .deserialize]) s) fun s1 =>
    if s1.err then clearAndReturn (.error s1.errcode s1.errinfo) s1
    else if s1.empty then
      clearAndReturn (if p.length = 0 then .emptyInput else .error (ErrorKind.code .malformedEncoding) 0) s1
    else
      andThen (hostMoves [command .decode] s1) fun s2 =>
        if s2.err then clearAndReturn (.error s2.errcode s2.errinfo) s2
        else clearAndReturn (.bytes s2.symOut) s2

end Sys2Proof.Machine
end

