-- ==== Sys2Proof/Safety.lean ====
section
/-! DEFINITION. The words in which statements speak of the block: what a state must be like (10_state.md R15 to R23), the
ends of a run (70_reset_and_hazards.md R211), what error entry leaves (60_exceptions.md R170, R171), which command may
write what (10_state.md R31), and the position of a parser in a tree string (30_encoding.md R68). -/

namespace Sys2Proof.Machine

/-! ### Invariants -/

/-- STATUS is legal (10_state.md R21): bits [7:3] read 0, and DONE and ERR are never both 1. -/
def StatusLegal (s : State) : Prop :=
  s.status.extractLsb' 3 5 = 0#5 ∧ ¬ (s.done = true ∧ s.err = true)

/-- The error record is legal (10_state.md R22, R23; 60_exceptions.md R170): ERRCODE and ERRINFO are 0 while ERR = 0;
while ERR = 1 ERRCODE is one of the four codes and the three outputs are empty. -/
def ErrorRecordLegal (s : State) : Prop :=
  (s.err = false → s.errcode = 0#8 ∧ s.errinfo = 0) ∧
  (s.err = true → (∃ k : ErrorKind, s.errcode = k.code) ∧ s.symOut = [] ∧ s.bitOut = [] ∧ s.tsOut = [])

/-- CT is invalid at every symbol, or it is the code table of the tree that TREE holds (10_state.md R16, R17). -/
def CodesOfTree (s : State) : Prop :=
  s.ct = noCodes ∨ ∃ t, s.tree = some t ∧ codeTable t = .ok s.ct

/-- The element storage of every input buffer is in its canonical form. -/
def StorageCanonical (s : State) : Prop :=
  Memory.wf s.symIn.cells = true ∧ Memory.wf s.bitIn.cells = true ∧ Memory.wf s.tsIn.cells = true

/-! ### The ends of a run -/

/-- A final state (70_reset_and_hazards.md R211): no error, and the last command is complete. -/
def Final (s : State) : Prop := s.err = false ∧ s.done = true

/-- A faulted state (R211): never a successful end. -/
def Faulted (s : State) : Prop := s.err = true

/-! ### Ends of a command -/

/-- `t` is `u` with error entry and nothing else (60_exceptions.md R170): the error is recorded, ERR is 1 and DONE 0, the
outputs are empty, and every other piece of state is that of `u`. Its last three clauses are on the model's own fields
(log entry 8). -/
def ErrorEntered (k : ErrorKind) (info : Nat) (u t : State) : Prop :=
  t.errcode = k.code ∧ t.errinfo = info ∧ t.err = true ∧ t.done = false ∧
  t.symOut = [] ∧ t.bitOut = [] ∧ t.tsOut = [] ∧
  t.empty = u.empty ∧ t.status.extractLsb' 3 5 = u.status.extractLsb' 3 5 ∧
  t.ft = u.ft ∧ t.tree = u.tree ∧ t.ct = u.ct ∧ t.symIn = u.symIn ∧ t.bitIn = u.bitIn ∧ t.tsIn = u.tsIn ∧
  t.tspos = u.tspos ∧ t.host = u.host ∧ t.seen = u.seen ∧ t.epoch = u.epoch

/-- The command completed without error: DONE is 1 and ERR is 0 (30_encoding.md R62 step 5). -/
def Completed (t : State) : Prop := t.done = true ∧ t.err = false

/-- What the row of a command in 10_state.md R31 leaves alone. A command writes no buffer, table or register that its row
does not mark; where it raises an error, error entry also empties the three outputs and writes the error record
(60_exceptions.md R170), so the clauses on those are about an end without error. Every element of an input buffer reads
after as it read before. The clauses on `host`, `seen` and `epoch` are on the model's own fields (log entry 8). -/
def LeavesAlone (i : Instr) (s t : State) : Prop :=
  (i ≠ .count → i ≠ .clear → t.ft = s.ft) ∧
  (i ≠ .build → i ≠ .deserialize → i ≠ .clear → t.tree = s.tree) ∧
  (i ≠ .build → i ≠ .codes → i ≠ .deserialize → i ≠ .clear → t.ct = s.ct) ∧
  (i ≠ .clear → t.symIn = s.symIn ∧ t.bitIn = s.bitIn ∧ t.tsIn = s.tsIn ∧ t.epoch = s.epoch ∧
    ∀ a, t.symInAt a = s.symInAt a ∧ t.bitInAt a = s.bitInAt a ∧ t.tsInAt a = s.tsInAt a) ∧
  (i ≠ .deserialize → i ≠ .clear → t.tspos = s.tspos) ∧
  (i ≠ .count → i ≠ .deserialize → i ≠ .clear → t.empty = s.empty) ∧
  (t.err = false → i ≠ .decode → i ≠ .clear → t.symOut = s.symOut) ∧
  (t.err = false → i ≠ .encode → i ≠ .clear → t.bitOut = s.bitOut) ∧
  (t.err = false → i ≠ .serialize → i ≠ .clear → t.tsOut = s.tsOut) ∧
  (t.err = false → i ≠ .clear → t.errcode = s.errcode ∧ t.errinfo = s.errinfo) ∧
  t.status.extractLsb' 3 5 = s.status.extractLsb' 3 5 ∧ t.host = s.host ∧ t.seen = s.seen

/-! ### Trees, codes and tree strings -/

/-- The symbol and frequency of each leaf, left to right (41_build.md R92). -/
def Tree.leafPairs : Tree → List (Byte × Nat)
  | .leaf s f => [(s, f)]
  | .internal _ l r => l.leafPairs ++ r.leafPairs

/-- Every internal node has the sum of its children's frequencies (10_state.md R15 (d)). -/
def Tree.Summed : Tree → Prop
  | .leaf _ _ => True
  | .internal f l r => f = l.freq + r.freq ∧ l.Summed ∧ r.Summed

/-- The symbols with a count above 0, in ascending order: the keys of the FrequencyTable (10_state.md R12). -/
def keys (ft : Table Nat) : List Byte := allSymbols.filter fun s => decide (0 < Table.get ft s)

/-- The sum of all entries of a frequency table. -/
def total (ft : Table Nat) : Nat := (allSymbols.map (Table.get ft)).sum

/-- No code is a prefix of the code of another symbol (00_scope.md R8; 10_state.md R17 (b)). -/
def PrefixFree (ct : Table (Option (List Bit))) : Prop :=
  ∀ a b p q, a ≠ b → Table.get ct a = some p → Table.get ct b = some q → ¬ p <+: q

/-- The symbols with a valid entry, in ascending order. -/
def validSymbols (ct : Table (Option (List Bit))) : List Byte := allSymbols.filter fun s => (Table.get ct s).isSome

/-- The code of a symbol as it is read: the empty sequence when the entry is invalid (10_state.md R16). -/
def codeOf (ct : Table (Option (List Bit))) (s : Byte) : List Bit := (Table.get ct s).getD []

/-- The sum over the symbols of frequency times code length (41_build.md R96). -/
def weightedLength (ft : Table Nat) (code : Byte → List Bit) : Nat :=
  (allSymbols.map fun s => Table.get ft s * (code s).length).sum

/-- Where a reader of the grammar of 30_encoding.md R68 stands after the bytes `read`: at a tag position, with `n` nodes
still to come. It starts with one node to come; a leaf settles one, and the tag of an internal node replaces one node
to come by two. With 0 to come, `read` is a whole tree string. -/
inductive TagPosition : Nat → List Byte → Prop where
  | start : TagPosition 1 []
  | leaf {n : Nat} {read : List Byte} (s : Byte) : TagPosition (n + 1) read → TagPosition n (read ++ [tagL, s])
  | internal {n : Nat} {read : List Byte} : TagPosition (n + 1) read → TagPosition (n + 2) (read ++ [tagI])

/-! ### What a command depends on -/

/-- Two states agree on what the row of a command in 10_state.md R31 marks as read. -/
def SameOperands (i : Instr) (s s' : State) : Prop :=
  match i with
  | .nop => True
  | .count => s.symInSeq = s'.symInSeq
  | .build => s.ft = s'.ft
  | .codes => s.tree = s'.tree
  | .encode => s.symInSeq = s'.symInSeq ∧ s.ct = s'.ct
  | .decode => s.bitInSeq = s'.bitInSeq ∧ s.tree = s'.tree
  | .serialize => s.tree = s'.tree
  | .deserialize => s.tsInSeq = s'.tsInSeq
  | .clear => True

/-- Two states agree on what the row of a command in 10_state.md R31 marks as written. -/
def SameResults (i : Instr) (t t' : State) : Prop :=
  match i with
  | .nop => True
  | .count => t.ft = t'.ft ∧ t.empty = t'.empty
  | .build => t.tree = t'.tree ∧ t.ct = t'.ct
  | .codes => t.ct = t'.ct
  | .encode => t.bitOut = t'.bitOut
  | .decode => t.symOut = t'.symOut
  | .serialize => t.tsOut = t'.tsOut
  | .deserialize => t.tree = t'.tree ∧ t.ct = t'.ct ∧ t.tspos = t'.tspos ∧ t.empty = t'.empty
  | .clear => t.ft = t'.ft ∧ t.tree = t'.tree ∧ t.ct = t'.ct ∧ t.symIn = t'.symIn ∧ t.bitIn = t'.bitIn ∧
      t.tsIn = t'.tsIn ∧ t.symOut = t'.symOut ∧ t.bitOut = t'.bitOut ∧ t.tsOut = t'.tsOut ∧
      t.empty = t'.empty ∧ t.tspos = t'.tspos

end Sys2Proof.Machine
end

