-- ==== Sys2Proof/Certificates/Slice0/Obligations.lean ====
section
/-! DEFINITION. The statements for the provers, each a rule of the spec or a law the spec derives. `s` is the state before,
`t` and `u` the states after. A premise `s.err = false` is the one condition 30_encoding.md R62 puts on a command. -/

open Sys2Proof Sys2Proof.Machine

/-! ### The command word -/

/-- 30_encoding.md R61: the nine words of the table, each written out, and the words at the edges of the two checks. -/
def Obligations.CommandWordsDecodeByTheTable : Prop :=
  decode 0x00#8 = .ok .nop ∧ decode 0x01#8 = .ok .count ∧ decode 0x02#8 = .ok .build ∧
  decode 0x03#8 = .ok .codes ∧ decode 0x04#8 = .ok .encode ∧ decode 0x05#8 = .ok .decode ∧
  decode 0x06#8 = .ok .serialize ∧ decode 0x07#8 = .ok .deserialize ∧ decode 0x08#8 = .ok .clear ∧
  decode 0x09#8 = .error .reservedOp ∧ decode 0x0F#8 = .error .reservedOp ∧
  decode 0x10#8 = .error .reservedRsv ∧ decode 0x18#8 = .error .reservedRsv ∧ decode 0xFF#8 = .error .reservedRsv

/-- R60, R61, R63: a word decodes to a command exactly when it is that command's word. -/
def Obligations.DecodeAndEncodeAgree : Prop :=
  ∀ (w : Byte) (i : Instr), decode w = .ok i ↔ w = encode i

/-- 30_encoding.md R63, 60_exceptions.md R168: the reserved words are 0x09 to 0xFF, and writing one while ERR = 0 raises
IllegalCommand with ERRINFO = the word, touching nothing but by error entry. -/
def Obligations.ReservedWordRaisesIllegalCommand : Prop :=
  (∀ w : Byte, (∃ e, decode w = .error e) ↔ 8 < w.toNat) ∧
  ∀ (w : Byte) (s : State), 8 < w.toNat → s.err = false →
    ∃ t, issue w s = .next t ∧ ErrorEntered .illegalCommand w.toNat s t

/-- 30_encoding.md R62: ignored under a sticky error; otherwise a defined word runs its command and ends with DONE = 1
exactly when no error is recorded, and a reserved word ends in error entry. -/
def Obligations.CommandsAreAcceptedInOrder : Prop :=
  ∀ (w : Byte) (s : State),
    (s.err = true → w ≠ 0x08#8 → issue w s = .next s) ∧
    ((s.err = false ∨ w = 0x08#8) →
      (∀ i, decode w = .ok i → ∃ t, issue w s = .next t ∧ exec i s = .next t ∧ t.done = !t.err) ∧
      (∀ e, decode w = .error e → ∃ t, issue w s = .next t ∧ ErrorEntered .illegalCommand w.toNat s t))

/-- 60_exceptions.md R172: while ERR = 1 every word but CLEAR's changes nothing at all, and the host can still read
everything and write the input buffers and FT. That a read adds to `seen` is the model's choice (log entry 8, DESIGN
CHOICE), and so is the storage form `Memory.write` in which an element write is put (log entry 15, DESIGN CHOICE). -/
def Obligations.StickyErrorIgnoresEveryOtherWord : Prop :=
  ∀ s : State, s.err = true →
    (∀ w : Byte, w ≠ 0x08#8 → issue w s = .next s) ∧ (∀ i : Instr, i ≠ .clear → exec i s = .next s) ∧
    (∀ r, hostMove (.read r) s = .next { s with seen := s.seen ++ [s.hostRead r] }) ∧
    (∀ i v, hostMove (.writeSymIn i v) s =
      .next { s with symIn := { cells := Memory.write s.symIn.cells i v, len := s.symIn.len } }) ∧
    (∀ i v, hostMove (.writeBitIn i v) s =
      .next { s with bitIn := { cells := Memory.write s.bitIn.cells i v, len := s.bitIn.len } }) ∧
    (∀ i v, hostMove (.writeTsIn i v) s =
      .next { s with tsIn := { cells := Memory.write s.tsIn.cells i v, len := s.tsIn.len } }) ∧
    (∀ n, hostMove (.writeReg 5 n) s = .next { s with symIn := { cells := s.symIn.cells, len := n } }) ∧
    (∀ n, hostMove (.writeReg 6 n) s = .next { s with bitIn := { cells := s.bitIn.cells, len := n } }) ∧
    (∀ n, hostMove (.writeReg 7 n) s = .next { s with tsIn := { cells := s.tsIn.cells, len := n } }) ∧
    (∀ c v, hostMove (.writeFt c v) s = .next { s with ft := Table.put s.ft c v })

/-! ### All commands -/

/-- 70_reset_and_hazards.md R211: there is no stuck state and no hang. -/
def Obligations.EveryCommandAndStepHasANextState : Prop :=
  (∀ (i : Instr) (s : State), ∃ t, exec i s = .next t) ∧ (∀ s : State, ∃ t, step s = .next t)

/-- 10_state.md R31, the frame of every command: NOP, COUNT, BUILD, CODES, ENCODE, DECODE, SERIALIZE, DESERIALIZE and
CLEAR leave alone what their rows do not mark. -/
def Obligations.CommandsWriteOnlyWhatTheirRowMarks : Prop :=
  ∀ (i : Instr) (s t : State), exec i s = .next t → LeavesAlone i s t

/-- 10_state.md R31, the read columns (and 41_build.md R97 for BUILD): what a command writes, and the error it records, is
a function of the operands its row marks as read. -/
def Obligations.ResultsDependOnTheOperandsAlone : Prop :=
  ∀ (i : Instr) (s s' : State), s.err = false → s'.err = false → SameOperands i s s' →
    ∃ t t', exec i s = .next t ∧ exec i s' = .next t' ∧ t.err = t'.err ∧
      (t.err = true → t.errcode = t'.errcode ∧ t.errinfo = t'.errinfo) ∧
      (t.err = false → SameResults i t t')

/-! ### NOP and CLEAR -/

/-- 46_control.md R150, R151: NOP, word 0x00, sets DONE and nothing else; while ERR = 1 it is ignored. -/
def Obligations.NopOnlySetsDone : Prop :=
  decode 0x00#8 = .ok .nop ∧ ∀ s : State,
    (s.err = false → exec .nop s = .next { s with status := s.status ||| 0x01#8 }) ∧
    (s.err = true → exec .nop s = .next s)

/-- 46_control.md R152, 70_reset_and_hazards.md R192: CLEAR, whatever ERR is, leaves the reset state with STATUS = 0x01. The
last three fields are the model's own (log entries 2 and 8); the reserved bits of STATUS are 0 by the invariant. -/
def Obligations.ClearRestoresTheResetState : Prop :=
  ∀ s : State, StatusLegal s →
    exec .clear s =
      .next { State.reset with status := 0x01#8, host := s.host, seen := s.seen, epoch := s.epoch + 1 }

/-- 46_control.md R153: while ERR = 1 no command but CLEAR is accepted; no host move but the reset event and a write of
CLEAR's word sets ERR back to 0, and CLEAR does, zeroing the error record. -/
def Obligations.OnlyClearAndResetEndAnError : Prop :=
  (∀ (i : Instr) (s : State), s.err = true → i ≠ .clear → exec i s = .next s) ∧
  (∀ (a : HostAction) (s t : State), hostMove a s = .next t → s.err = true → t.err = false →
    a = .reset ∨ ∃ v, a = .writeReg 0 v ∧ BitVec.ofNat 8 v = 0x08#8) ∧
  (∀ s : State, s.err = true →
    ∃ t, exec .clear s = .next t ∧ t.err = false ∧ t.errcode = 0#8 ∧ t.errinfo = 0)

/-! ### COUNT -/

/-- 40_count.md R80: COUNT is word 0x01; FT is the number of occurrences of each symbol, the entries sum to the length,
EMPTY says whether the length is 0, TREE and CT are untouched, and there is no error. -/
def Obligations.CountGivesTheNumberOfOccurrences : Prop :=
  decode 0x01#8 = .ok .count ∧ ∀ s : State, s.err = false →
    ∃ t, exec .count s = .next t ∧ Completed t ∧
      (∀ c, Table.get t.ft c = ((List.range s.symIn.len).filter fun i => s.symInAt i == c).length) ∧
      total t.ft = s.symIn.len ∧ (t.empty = true ↔ s.symIn.len = 0) ∧ t.tree = s.tree ∧ t.ct = s.ct

/-- 40_count.md R83 (c): the order of the input does not matter to FT. -/
def Obligations.CountForgetsTheOrderOfTheInput : Prop :=
  ∀ s s' : State, s.err = false → s'.err = false → s.symInSeq.Perm s'.symInSeq →
    ∃ t t', exec .count s = .next t ∧ exec .count s' = .next t' ∧ t.ft = t'.ft

/-! ### BUILD -/

/-- 41_build.md R90, R92; 10_state.md R15 (d), (e): with `k` keys, `k >= 1`, the tree has one leaf for each key with its
count, `2k - 1` nodes, every internal frequency the sum of its children's, and the total at the root; CT is invalid. -/
def Obligations.BuildMakesATreeOfTheTable : Prop :=
  ∀ s : State, s.err = false → keys s.ft ≠ [] →
    ∃ t T, exec .build s = .next t ∧ Completed t ∧ t.tree = some T ∧
      T.leafPairs.Perm ((keys s.ft).map fun c => (c, Table.get s.ft c)) ∧
      T.Summed ∧ T.nodes + 1 = 2 * (keys s.ft).length ∧ T.freq = total s.ft ∧
      t.ct = noCodes ∧ t.ft = s.ft

/-- 41_build.md R91: an all-zero table is a ContractViolation with ERRINFO 0, TREE = NULL and CT invalid. -/
def Obligations.BuildOnAnEmptyTableIsAContractViolation : Prop :=
  ∀ s : State, s.err = false → (∀ c, Table.get s.ft c = 0) →
    ∃ t, exec .build s = .next t ∧ ErrorEntered .contractViolation 0 { s with tree := none, ct := noCodes } t

/-- 41_build.md R95: exactly one non-zero entry gives the one-node tree. -/
def Obligations.BuildOfOneSymbolIsALeaf : Prop :=
  ∀ (s : State) (c : Byte), s.err = false → Table.get s.ft c > 0 → (∀ d, d ≠ c → Table.get s.ft d = 0) →
    ∃ t, exec .build s = .next t ∧ Completed t ∧ t.tree = some (.leaf c (Table.get s.ft c))

/-- 41_build.md R98 (c), R93, R94: with two non-zero entries the left leaf is the one of smaller frequency, or of smaller
symbol when the frequencies are equal. -/
def Obligations.BuildOfTwoSymbolsOrdersThem : Prop :=
  ∀ (s : State) (a b : Byte), s.err = false → a.toNat < b.toNat → Table.get s.ft a > 0 → Table.get s.ft b > 0 →
    (∀ d, d ≠ a → d ≠ b → Table.get s.ft d = 0) →
    ∃ t, exec .build s = .next t ∧ Completed t ∧
      t.tree = some
        (if Table.get s.ft b < Table.get s.ft a then
          .internal (Table.get s.ft a + Table.get s.ft b) (.leaf b (Table.get s.ft b)) (.leaf a (Table.get s.ft a))
        else
          .internal (Table.get s.ft a + Table.get s.ft b) (.leaf a (Table.get s.ft a)) (.leaf b (Table.get s.ft b)))

/-- 41_build.md R99, the document's own table: a 3, b 2, c 1. -/
def Obligations.BuildOfTheWorkedExample : Prop :=
  ∀ s : State, s.err = false →
    s.ft = Table.put (Table.put (Table.put (Table.fill 0) 0x61#8 3) 0x62#8 2) 0x63#8 1 →
    ∃ t, exec .build s = .next t ∧ Completed t ∧
      t.tree = some (.internal 6 (.leaf 0x61#8 3) (.internal 3 (.leaf 0x63#8 1) (.leaf 0x62#8 2)))

/-- 41_build.md R93, R92: what is taken from a queue with distinct sequence numbers is its element of smallest key, and the
leaves enter it in ascending symbol order with sequence numbers from 0. -/
def Obligations.QueueGivesTheSmallestKeyFirst : Prop :=
  (∀ pq : List QueueEntry, (pq.map (·.seq)).Nodup → pq ≠ [] →
    ∃ e rest, extractMin pq = some (e, rest) ∧ pq.Perm (e :: rest) ∧
      ∀ x ∈ rest, e.node.freq < x.node.freq ∨ (e.node.freq = x.node.freq ∧ e.seq < x.seq)) ∧
  (∀ ft : Table Nat,
    (leafEntries ft allSymbols 0).map (·.node) = (keys ft).map (fun c => .leaf c (Table.get ft c)) ∧
    (leafEntries ft allSymbols 0).map (·.seq) = List.range (keys ft).length)

/-- 41_build.md R96: with two or more symbols, the code that BUILD and then CODES give has the smallest sum of frequency
times code length among all prefix codes for the symbols. -/
def Obligations.BuildIsOptimal : Prop :=
  ∀ s : State, s.err = false → 2 ≤ (keys s.ft).length →
    ∃ t u, exec .build s = .next t ∧ exec .codes t = .next u ∧ Completed u ∧
      ∀ code : Byte → List Bit,
        (∀ a ∈ keys s.ft, ∀ b ∈ keys s.ft, a ≠ b → ¬ code a <+: code b) →
        weightedLength s.ft (codeOf u.ct) ≤ weightedLength s.ft code

/-! ### CODES -/

/-- 42_codes.md R106 (e): CODES after BUILD always succeeds, with a code for exactly the keys of FT. -/
def Obligations.CodesAfterBuildSucceeds : Prop :=
  ∀ s : State, s.err = false → keys s.ft ≠ [] →
    ∃ t u, exec .build s = .next t ∧ exec .codes t = .next u ∧ Completed u ∧ validSymbols u.ct = keys s.ft

/-- 42_codes.md R102: with two or more leaves and no repeated symbol, CT holds exactly the paths from the root, each of
length at least 1. -/
def Obligations.CodesRecordsEveryPath : Prop :=
  ∀ (s : State) (T : Tree), s.err = false → s.tree = some T → T.isLeaf = false → T.leaves.Nodup →
    ∃ t, exec .codes s = .next t ∧ Completed t ∧ t.tree = some T ∧
      (∀ c p, Table.get t.ct c = some p ↔ T.symAt p = some c) ∧
      (∀ c p, Table.get t.ct c = some p → 1 ≤ p.length)

/-- 42_codes.md R103: a lone symbol has the code `[0]`, and every other entry is invalid. -/
def Obligations.CodesOfALoneLeaf : Prop :=
  ∀ (s : State) (c : Byte) (f : Nat), s.err = false → s.tree = some (.leaf c f) →
    ∃ t, exec .codes s = .next t ∧ Completed t ∧ t.tree = s.tree ∧
      Table.get t.ct c = some [false] ∧ ∀ d, d ≠ c → Table.get t.ct d = none

/-- 42_codes.md R101: CODES on the absent tree. -/
def Obligations.CodesWithoutATreeIsAContractViolation : Prop :=
  ∀ s : State, s.err = false → s.tree = none →
    ∃ t, exec .codes s = .next t ∧ ErrorEntered .contractViolation 0 { s with ct := noCodes } t

/-- 42_codes.md R105: a repeated symbol raises at the second leaf that has it in left-to-right order. -/
def Obligations.CodesOfARepeatedSymbolIsAContractViolation : Prop :=
  ∀ (s : State) (T : Tree) (before after : List Byte) (c : Byte), s.err = false → s.tree = some T →
    T.leaves = before ++ c :: after → before.Nodup → c ∈ before →
    ∃ t, exec .codes s = .next t ∧ ErrorEntered .contractViolation c.toNat { s with ct := noCodes } t

/-- 42_codes.md R104: no code is a prefix of another, the valid entries number the leaves, at most 256, and no code is
longer than 255 bits. -/
def Obligations.CodesArePrefixFree : Prop :=
  ∀ (s t : State) (T : Tree), s.err = false → s.tree = some T → exec .codes s = .next t → Completed t →
    PrefixFree t.ct ∧ (validSymbols t.ct).length = T.leaves.length ∧ T.leaves.length ≤ 256 ∧
      ∀ c p, Table.get t.ct c = some p → p.length ≤ 255

/-- 42_codes.md R106 (f): with two or more entries the sum of 2^(-length) is 1, here over the common denominator 2^255. -/
def Obligations.CodesMeetTheKraftEquality : Prop :=
  ∀ (s t : State) (T : Tree), s.err = false → s.tree = some T → T.isLeaf = false → exec .codes s = .next t →
    Completed t →
    ((validSymbols t.ct).map fun c => 2 ^ (255 - (codeOf t.ct c).length)).sum = 2 ^ 255

/-- 10_state.md R17: whenever an entry of CT is valid, every valid code is non-empty, the codes form a prefix code, a lone
code is `[0]`, and two or more codes are the paths in TREE. -/
def Obligations.CodeTableLaws : Prop :=
  ∀ s : State, CodesOfTree s → validSymbols s.ct ≠ [] →
    (∀ c p, Table.get s.ct c = some p → p ≠ []) ∧ PrefixFree s.ct ∧
    (∀ c, validSymbols s.ct = [c] → Table.get s.ct c = some [false]) ∧
    (2 ≤ (validSymbols s.ct).length →
      ∃ T, s.tree = some T ∧ ∀ c p, Table.get s.ct c = some p ↔ T.symAt p = some c)

/-! ### ENCODE -/

/-- 43_encode.md R111: BIT_OUT is the codes in input order, and its length the sum of count times code length. -/
def Obligations.EncodeConcatenatesTheCodes : Prop :=
  ∀ s : State, s.err = false → (∀ i, i < s.symIn.len → (Table.get s.ct (s.symInAt i)).isSome) →
    ∃ t, exec .encode s = .next t ∧ Completed t ∧
      t.bitOut = (List.range s.symIn.len).flatMap (fun i => codeOf s.ct (s.symInAt i)) ∧
      t.bitOut.length = (allSymbols.map fun c => s.symInSeq.count c * (codeOf s.ct c).length).sum

/-- 43_encode.md R113: the first symbol without a code raises ContractViolation with its index. -/
def Obligations.EncodeOfASymbolWithoutACodeIsAContractViolation : Prop :=
  ∀ (s : State) (i : Nat), s.err = false → i < s.symIn.len → Table.get s.ct (s.symInAt i) = none →
    (∀ j, j < i → (Table.get s.ct (s.symInAt j)).isSome) →
    ∃ t, exec .encode s = .next t ∧ ErrorEntered .contractViolation i s t

/-- 43_encode.md R114: an empty input encodes to nothing, whatever CT holds. -/
def Obligations.EncodeOfAnEmptyInput : Prop :=
  ∀ s : State, s.err = false → s.symIn.len = 0 →
    ∃ t, exec .encode s = .next t ∧ Completed t ∧ t.bitOut = []

/-- 43_encode.md R112: with the one valid code of a lone symbol, the output is that many bits 0. -/
def Obligations.EncodeOfALoneSymbolIsAllZeros : Prop :=
  ∀ (s : State) (c : Byte), s.err = false → CodesOfTree s → validSymbols s.ct = [c] →
    (∀ i, i < s.symIn.len → s.symInAt i = c) →
    ∃ t, exec .encode s = .next t ∧ Completed t ∧ t.bitOut = List.replicate s.symIn.len false

/-- 70_reset_and_hazards.md R202: after BUILD, and after DESERIALIZE, ENCODE of a non-empty input without a new CODES is a
ContractViolation at the first symbol. -/
def Obligations.StaleCodeTableIsAContractViolation : Prop :=
  ∀ (i : Instr) (s t : State), i = .build ∨ i = .deserialize → s.err = false → exec i s = .next t → Completed t →
    0 < s.symIn.len →
    ∃ u, exec .encode t = .next u ∧ ErrorEntered .contractViolation 0 t u

/-! ### DECODE -/

/-- 44_decode.md R121: DECODE on the absent tree, whatever BIT_IN holds. -/
def Obligations.DecodeWithoutATreeIsAContractViolation : Prop :=
  ∀ s : State, s.err = false → s.tree = none →
    ∃ t, exec .decode s = .next t ∧ ErrorEntered .contractViolation 0 s t

/-- 44_decode.md R122: BIT_IN split into complete root-to-leaf paths gives the symbols of their leaves in order; the split
is unique; the output is no longer than the input. -/
def Obligations.DecodeSplitsTheBitsIntoPaths : Prop :=
  ∀ (s : State) (T : Tree) (paths : List (List Bit)) (out : List Byte), s.err = false → s.tree = some T →
    T.isLeaf = false → paths.map T.symAt = out.map some → s.bitInSeq = paths.flatten →
    (∃ t, exec .decode s = .next t ∧ Completed t ∧ t.symOut = out ∧ out.length ≤ s.bitIn.len) ∧
    (∀ paths' : List (List Bit), (∀ p ∈ paths', (T.symAt p).isSome) → s.bitInSeq = paths'.flatten → paths' = paths)

/-- 44_decode.md R124: bits that are no concatenation of complete paths end off the root: MalformedEncoding with
ERRINFO = BIT_IN_LEN, nothing delivered (R128 (a)). -/
def Obligations.DecodeInsideACodeIsAMalformedEncoding : Prop :=
  ∀ (s : State) (T : Tree), s.err = false → s.tree = some T → T.isLeaf = false →
    (¬ ∃ paths : List (List Bit), (∀ p ∈ paths, (T.symAt p).isSome) ∧ s.bitInSeq = paths.flatten) →
    ∃ t, exec .decode s = .next t ∧ ErrorEntered .malformedEncoding s.bitIn.len s t

/-- 44_decode.md R123: against a single leaf, bits all 0 give one symbol each, and otherwise the first bit 1 raises
MalformedEncoding with its index. -/
def Obligations.DecodeAgainstALoneLeaf : Prop :=
  ∀ (s : State) (c : Byte) (f : Nat), s.err = false → s.tree = some (.leaf c f) →
    ((∀ i, i < s.bitIn.len → s.bitInAt i = false) →
      ∃ t, exec .decode s = .next t ∧ Completed t ∧ t.symOut = List.replicate s.bitIn.len c) ∧
    (∀ i, i < s.bitIn.len → s.bitInAt i = true → (∀ j, j < i → s.bitInAt j = false) →
      ∃ t, exec .decode s = .next t ∧ ErrorEntered .malformedEncoding i s t)

/-- 44_decode.md R126: an empty payload decodes to nothing against every tree. -/
def Obligations.DecodeOfAnEmptyPayload : Prop :=
  ∀ (s : State) (T : Tree), s.err = false → s.tree = some T → s.bitIn.len = 0 →
    ∃ t, exec .decode s = .next t ∧ Completed t ∧ t.symOut = []

/-! ### SERIALIZE and DESERIALIZE -/

/-- 45_serialize.md R131: SERIALIZE, word 0x06, raises nothing and changes neither TREE nor EMPTY; the absent tree gives the
empty string, a leaf `L` and its symbol, an internal node `I` and its two subtrees in order. -/
def Obligations.SerializeEmitsThePreorderString : Prop :=
  decode 0x06#8 = .ok .serialize ∧
  (∀ s : State, s.err = false →
    ∃ t, exec .serialize s = .next t ∧ Completed t ∧ t.tsOut = serialize s.tree ∧ t.tree = s.tree ∧ t.empty = s.empty) ∧
  serialize none = [] ∧ (∀ c f, serialize (some (.leaf c f)) = [0x4C#8, c]) ∧
  (∀ f l r, serialize (some (.internal f l r)) = [0x49#8] ++ serialize (some l) ++ serialize (some r))

/-- 45_serialize.md R133, 30_encoding.md R70: a tree with `n` leaves gives `3n - 1` bytes; a tree string that another one
begins with is that of a tree of the same shape and symbols, so no two different trees (frequencies apart) share a string
and no tree string is a proper prefix of another. -/
def Obligations.TreeStringsAreSelfTerminating : Prop :=
  (∀ (s : State) (T : Tree), s.err = false → s.tree = some T →
    ∃ t, exec .serialize s = .next t ∧ Completed t ∧ t.tsOut.length + 1 = 3 * T.leaves.length) ∧
  (∀ A B : Tree, serialize (some A) <+: serialize (some B) → A.unweighted = B.unweighted)

/-- 30_encoding.md R71, 45_serialize.md R135: the empty string is the absent tree, EMPTY is 1, and there is no error. -/
def Obligations.DeserializeOfTheEmptyString : Prop :=
  ∀ s : State, s.err = false → s.tsIn.len = 0 →
    ∃ t, exec .deserialize s = .next t ∧ Completed t ∧ t.tree = none ∧ t.empty = true ∧ t.tspos = 0 ∧ t.ct = noCodes

/-- 45_serialize.md R135, R136, R138, R141: a string that begins with the string of a tree gives that tree with every
frequency 0, and TSPOS is the length of the tree's string; what follows it is not an error. -/
def Obligations.DeserializeReadsBackATree : Prop :=
  ∀ (s : State) (T : Tree) (rest : List Byte), s.err = false → s.tsInSeq = serialize (some T) ++ rest →
    ∃ t, exec .deserialize s = .next t ∧ Completed t ∧ t.tree = some T.unweighted ∧
      t.tspos = (serialize (some T)).length ∧ t.empty = false ∧ t.ct = noCodes

/-- 45_serialize.md R134 (c), R141: the string of the tree that DESERIALIZE returns is the first TSPOS bytes of TS_IN. -/
def Obligations.DeserializeConsumesTheStringOfItsTree : Prop :=
  ∀ s t : State, s.err = false → 0 < s.tsIn.len → exec .deserialize s = .next t → Completed t →
    ∃ T, t.tree = some T ∧ serialize (some T) = s.tsInSeq.take t.tspos ∧ t.tspos ≤ s.tsIn.len ∧ T.unweighted = T

/-- 45_serialize.md R137: a non-empty string that ends where a tag is expected, or after the tag `L`, is a MalformedTree
with ERRINFO = TS_IN_LEN; TREE is NULL, TSPOS 0, CT invalid. -/
def Obligations.DeserializeOfAStringThatEndsEarlyIsMalformed : Prop :=
  ∀ (s : State) (n : Nat), s.err = false → s.tsInSeq ≠ [] →
    (TagPosition (n + 1) s.tsInSeq ∨ ∃ read, TagPosition (n + 1) read ∧ s.tsInSeq = read ++ [tagL]) →
    ∃ t, exec .deserialize s = .next t ∧
      ErrorEntered .malformedTree s.tsIn.len
        { s.setFlag .empty false with tree := none, ct := noCodes, tspos := 0 } t

/-- 45_serialize.md R140: a byte in tag position that is neither `L` nor `I` is a MalformedTree with ERRINFO its index. -/
def Obligations.DeserializeOfAnUnrecognizedTagIsMalformed : Prop :=
  ∀ (s : State) (n : Nat) (read rest : List Byte) (b : Byte), s.err = false → TagPosition (n + 1) read →
    s.tsInSeq = read ++ b :: rest → b ≠ 0x4C#8 → b ≠ 0x49#8 →
    ∃ t, exec .deserialize s = .next t ∧
      ErrorEntered .malformedTree read.length
        { s.setFlag .empty false with tree := none, ct := noCodes, tspos := 0 } t

/-! ### The host's accesses, reset and the step -/

/-- 10_state.md R19, R20, R25, R35: what each register reads, that a write to register 5, 6 or 7 makes that input length
the value and leaves everything else, and that a write to a read-only register, to a number above 10 or to CT has no
effect. It holds whatever ERR is. -/
def Obligations.RegisterFileReadsAndWrites : Prop :=
  ∀ s : State,
    s.hostRead (.reg 0) = .nat 0 ∧ s.hostRead (.reg 1) = .nat s.status.toNat ∧
    s.hostRead (.reg 2) = .nat s.errcode.toNat ∧ s.hostRead (.reg 3) = .nat s.errinfo ∧
    s.hostRead (.reg 4) = .nat s.tspos ∧ s.hostRead (.reg 5) = .nat s.symIn.len ∧
    s.hostRead (.reg 6) = .nat s.bitIn.len ∧ s.hostRead (.reg 7) = .nat s.tsIn.len ∧
    s.hostRead (.reg 8) = .nat s.symOut.length ∧ s.hostRead (.reg 9) = .nat s.bitOut.length ∧
    s.hostRead (.reg 10) = .nat s.tsOut.length ∧ (∀ n, 10 < n → s.hostRead (.reg n) = .nat 0) ∧
    (∀ v, hostMove (.writeReg 5 v) s = .next { s with symIn := { s.symIn with len := v } }) ∧
    (∀ v, hostMove (.writeReg 6 v) s = .next { s with bitIn := { s.bitIn with len := v } }) ∧
    (∀ v, hostMove (.writeReg 7 v) s = .next { s with tsIn := { s.tsIn with len := v } }) ∧
    (∀ n v, n ≠ 0 → n ≠ 5 → n ≠ 6 → n ≠ 7 → hostMove (.writeReg n v) s = .next s) ∧
    (∀ c b code, hostMove (.writeCt c b code) s = .next s)

/-- 10_state.md R12, R16, R35: the host reads FT as it is, and an invalid entry of CT as `(0, [])`; a host write of `FT[c]`
is read back and changes no other entry. -/
def Obligations.TablesReadAsTheyStand : Prop :=
  ∀ (s : State) (c : Byte),
    s.hostRead (.ft c) = .nat (Table.get s.ft c) ∧
    (Table.get s.ct c = none → s.hostRead (.ct c) = .entry false []) ∧
    (∀ code, Table.get s.ct c = some code → s.hostRead (.ct c) = .entry true code) ∧
    (∀ v, ∃ t, hostMove (.writeFt c v) s = .next t ∧ Table.get t.ft c = v ∧
      ∀ d, d ≠ c → Table.get t.ft d = Table.get s.ft d)

/-- 20_memory.md R45: an element of an input buffer is what the host last wrote to it. The write changes no other element
of that buffer, not its length, and no other piece of state: the state after is the state before but for the element
storage of that one buffer. -/
def Obligations.ElementWritesAreReadBack : Prop :=
  ∀ (s : State) (i : Nat),
    (∀ v, ∃ t, hostMove (.writeSymIn i v) s = .next t ∧ t.symInAt i = v ∧ (∀ j, j ≠ i → t.symInAt j = s.symInAt j) ∧
      t = { s with symIn := { s.symIn with cells := t.symIn.cells } }) ∧
    (∀ v, ∃ t, hostMove (.writeBitIn i v) s = .next t ∧ t.bitInAt i = v ∧ (∀ j, j ≠ i → t.bitInAt j = s.bitInAt j) ∧
      t = { s with bitIn := { s.bitIn with cells := t.bitIn.cells } }) ∧
    (∀ v, ∃ t, hostMove (.writeTsIn i v) s = .next t ∧ t.tsInAt i = v ∧ (∀ j, j ≠ i → t.tsInAt j = s.tsInAt j) ∧
      t = { s with tsIn := { s.tsIn with cells := t.tsIn.cells } })

/-- 20_memory.md R47: a read writes nothing but the host's own notes (the model's own field: log entry 8), and
below a buffer's length the same read gives the same value again. -/
def Obligations.ReadsHaveNoSideEffect : Prop :=
  (∀ (r : ReadTarget) (s : State),
    hostMove (.read r) s = .next { s with seen := s.seen ++ [s.hostRead r] }) ∧
  (∀ (r : ReadTarget) (s t : State), hostMove (.read r) s = .next t →
    (∀ i, r = .symIn i → i < s.symIn.len) → (∀ i, r = .bitIn i → i < s.bitIn.len) →
    (∀ i, r = .tsIn i → i < s.tsIn.len) → (∀ i, r = .symOut i → i < s.symOut.length) →
    (∀ i, r = .bitOut i → i < s.bitOut.length) → (∀ i, r = .tsOut i → i < s.tsOut.length) →
    t.hostRead r = s.hostRead r)

/-- 70_reset_and_hazards.md R190, 10_state.md R33: reset, from every state, leaves FT all 0, TREE NULL, CT invalid, the six
lengths 0, STATUS 0x00, ERRCODE, ERRINFO and TSPOS 0. What becomes of `host`, `seen` and `epoch`, the model's own fields, is
the model's choice (log entries 2 and 8). -/
def Obligations.ResetLeavesEverythingEmpty : Prop :=
  ∀ s : State, ∃ t, hostMove .reset s = .next t ∧
    t = { State.reset with host := s.host, seen := s.seen, epoch := s.epoch + 1 } ∧
    (∀ c, Table.get t.ft c = 0) ∧ t.tree = none ∧ (∀ c, Table.get t.ct c = none) ∧
    t.symIn.len = 0 ∧ t.bitIn.len = 0 ∧ t.tsIn.len = 0 ∧
    t.symOut.length = 0 ∧ t.bitOut.length = 0 ∧ t.tsOut.length = 0 ∧
    t.status = 0x00#8 ∧ t.errcode = 0#8 ∧ t.errinfo = 0 ∧ t.tspos = 0

/-- 10_state.md R20, R13: when the host's next action writes a command word, the step is the command, with the host gone
on to its next action. The host's list in State is the model's own form (log entries 5 and 8), and so is that a write to
the 8-bit CMD takes the low 8 bits of the value (log entry 7). -/
def Obligations.StepRunsTheDecodedCommand : Prop :=
  ∀ (s : State) (v : Nat) (rest : HostProgram) (i : Instr), s.host = .act (.writeReg 0 v) rest →
    decode (BitVec.ofNat 8 v) = .ok i → step s = exec i { s with host := rest }

/-- 70_reset_and_hazards.md R191, R211; 20_memory.md R49: with the host's list ended nothing happens, and otherwise a step
takes the host's next action. The model's choices in it: that the step with the list ended changes nothing (log entry 4,
DESIGN CHOICE), that the host's list stands in State, and that its conditional may test any of the three flags of STATUS
(log entry 8, DESIGN CHOICE), where 30_encoding.md R66 has a conditional on EMPTY alone. -/
def Obligations.StepFollowsTheHost : Prop :=
  (∀ s : State, s.host = .ended → step s = .next s) ∧
  (∀ (s : State) (a : HostAction) (rest : HostProgram), s.host = .act a rest →
    step s = hostMove a { s with host := rest }) ∧
  (∀ (s : State) (f : StatusFlag) (yes no : HostProgram), s.host = .branch f yes no →
    step s = .next { s with host := if s.flag f then yes else no })

/-! ### Invariants -/

/-- 10_state.md R21: the reserved bits of STATUS stay 0, and DONE and ERR are never both 1. -/
def Obligations.StepKeepsStatusLegal : Prop :=
  ∀ s t : State, StatusLegal s → step s = .next t → StatusLegal t

/-- 10_state.md R22, R23; 60_exceptions.md R170: no error record without ERR, one of the four codes and no output with it. -/
def Obligations.StepKeepsErrorRecordLegal : Prop :=
  ∀ s t : State, ErrorRecordLegal s → step s = .next t → ErrorRecordLegal t

/-- 10_state.md R16, R17: CT stays invalid or the code table of TREE: no stale table ever stands beside another tree. -/
def Obligations.StepKeepsCodesOfTree : Prop :=
  ∀ s t : State, CodesOfTree s → step s = .next t → CodesOfTree t

/-- The element storage of the input buffers keeps its one canonical form (the model's own form of 20_memory.md R40). -/
def Obligations.StepKeepsStorageCanonical : Prop :=
  ∀ s t : State, StorageCanonical s → step s = .next t → StorageCanonical t

/-- The four invariants hold at reset (10_state.md R33). -/
def Obligations.ResetMeetsTheInvariants : Prop :=
  StatusLegal State.reset ∧ ErrorRecordLegal State.reset ∧ CodesOfTree State.reset ∧ StorageCanonical State.reset

/-! ### The host sequences -/

/-- 46_control.md R157, R154, R155: what COMPRESS returns for a non-empty input, DECOMPRESS turns back into it; for the
empty input both take the EmptyInput exit. -/
def Obligations.DecompressInvertsCompress : Prop :=
  ∀ (s s' : State) (b : List Byte), s.err = false → s'.err = false →
    (b ≠ [] → ∃ u u' ts bits, compress b s = .next (u, .pair ts bits) ∧ decompress ts bits s' = .next (u', .bytes b)) ∧
    (b = [] → ∃ u u', compress b s = .next (u, .emptyInput) ∧ decompress [] [] s' = .next (u', .emptyInput))

/-- 46_control.md R156: an empty tree string beside a non-empty bit-string is the host's MalformedEncoding with ERRINFO 0. -/
def Obligations.DecompressOfBitsWithoutATree : Prop :=
  ∀ (s : State) (p : List Bit), s.err = false → p ≠ [] →
    ∃ u, decompress [] p s = .next (u, .error 2#8 0)
end

