-- ==== Sys2Proof/Laws/State.lean ====
section
/-! SUPPORT. One lemma per field for each operation that updates the state, so that no proof unfolds a record update. -/

namespace Sys2Proof.Machine

/-! `State.setFlag` writes STATUS alone. -/

@[simp] theorem State.setFlag_ft (s : State) (f : StatusFlag) (b : Bool) : (s.setFlag f b).ft = s.ft := rfl
@[simp] theorem State.setFlag_tree (s : State) (f : StatusFlag) (b : Bool) : (s.setFlag f b).tree = s.tree := rfl
@[simp] theorem State.setFlag_ct (s : State) (f : StatusFlag) (b : Bool) : (s.setFlag f b).ct = s.ct := rfl
@[simp] theorem State.setFlag_symIn (s : State) (f : StatusFlag) (b : Bool) : (s.setFlag f b).symIn = s.symIn := rfl
@[simp] theorem State.setFlag_bitIn (s : State) (f : StatusFlag) (b : Bool) : (s.setFlag f b).bitIn = s.bitIn := rfl
@[simp] theorem State.setFlag_tsIn (s : State) (f : StatusFlag) (b : Bool) : (s.setFlag f b).tsIn = s.tsIn := rfl
@[simp] theorem State.setFlag_symOut (s : State) (f : StatusFlag) (b : Bool) : (s.setFlag f b).symOut = s.symOut := rfl
@[simp] theorem State.setFlag_bitOut (s : State) (f : StatusFlag) (b : Bool) : (s.setFlag f b).bitOut = s.bitOut := rfl
@[simp] theorem State.setFlag_tsOut (s : State) (f : StatusFlag) (b : Bool) : (s.setFlag f b).tsOut = s.tsOut := rfl
@[simp] theorem State.setFlag_status (s : State) (f : StatusFlag) (b : Bool) : (s.setFlag f b).status = statusWrite s.status f b := rfl
@[simp] theorem State.setFlag_errcode (s : State) (f : StatusFlag) (b : Bool) : (s.setFlag f b).errcode = s.errcode := rfl
@[simp] theorem State.setFlag_errinfo (s : State) (f : StatusFlag) (b : Bool) : (s.setFlag f b).errinfo = s.errinfo := rfl
@[simp] theorem State.setFlag_tspos (s : State) (f : StatusFlag) (b : Bool) : (s.setFlag f b).tspos = s.tspos := rfl
@[simp] theorem State.setFlag_host (s : State) (f : StatusFlag) (b : Bool) : (s.setFlag f b).host = s.host := rfl
@[simp] theorem State.setFlag_seen (s : State) (f : StatusFlag) (b : Bool) : (s.setFlag f b).seen = s.seen := rfl
@[simp] theorem State.setFlag_epoch (s : State) (f : StatusFlag) (b : Bool) : (s.setFlag f b).epoch = s.epoch := rfl

/-! `State.setEmptyOf` writes STATUS alone. -/

@[simp] theorem State.setEmptyOf_ft (s : State) (n : Nat) : (s.setEmptyOf n).ft = s.ft := rfl
@[simp] theorem State.setEmptyOf_tree (s : State) (n : Nat) : (s.setEmptyOf n).tree = s.tree := rfl
@[simp] theorem State.setEmptyOf_ct (s : State) (n : Nat) : (s.setEmptyOf n).ct = s.ct := rfl
@[simp] theorem State.setEmptyOf_symIn (s : State) (n : Nat) : (s.setEmptyOf n).symIn = s.symIn := rfl
@[simp] theorem State.setEmptyOf_bitIn (s : State) (n : Nat) : (s.setEmptyOf n).bitIn = s.bitIn := rfl
@[simp] theorem State.setEmptyOf_tsIn (s : State) (n : Nat) : (s.setEmptyOf n).tsIn = s.tsIn := rfl
@[simp] theorem State.setEmptyOf_symOut (s : State) (n : Nat) : (s.setEmptyOf n).symOut = s.symOut := rfl
@[simp] theorem State.setEmptyOf_bitOut (s : State) (n : Nat) : (s.setEmptyOf n).bitOut = s.bitOut := rfl
@[simp] theorem State.setEmptyOf_tsOut (s : State) (n : Nat) : (s.setEmptyOf n).tsOut = s.tsOut := rfl
@[simp] theorem State.setEmptyOf_status (s : State) (n : Nat) : (s.setEmptyOf n).status = statusWrite s.status .empty (n == 0) := rfl
@[simp] theorem State.setEmptyOf_errcode (s : State) (n : Nat) : (s.setEmptyOf n).errcode = s.errcode := rfl
@[simp] theorem State.setEmptyOf_errinfo (s : State) (n : Nat) : (s.setEmptyOf n).errinfo = s.errinfo := rfl
@[simp] theorem State.setEmptyOf_tspos (s : State) (n : Nat) : (s.setEmptyOf n).tspos = s.tspos := rfl
@[simp] theorem State.setEmptyOf_host (s : State) (n : Nat) : (s.setEmptyOf n).host = s.host := rfl
@[simp] theorem State.setEmptyOf_seen (s : State) (n : Nat) : (s.setEmptyOf n).seen = s.seen := rfl
@[simp] theorem State.setEmptyOf_epoch (s : State) (n : Nat) : (s.setEmptyOf n).epoch = s.epoch := rfl

/-! `State.errorEntry` writes the error record, STATUS and the three outputs (60_exceptions.md R170). -/

@[simp] theorem State.errorEntry_ft (s : State) (k : ErrorKind) (info : Nat) : (s.errorEntry k info).ft = s.ft := rfl
@[simp] theorem State.errorEntry_tree (s : State) (k : ErrorKind) (info : Nat) : (s.errorEntry k info).tree = s.tree := rfl
@[simp] theorem State.errorEntry_ct (s : State) (k : ErrorKind) (info : Nat) : (s.errorEntry k info).ct = s.ct := rfl
@[simp] theorem State.errorEntry_symIn (s : State) (k : ErrorKind) (info : Nat) : (s.errorEntry k info).symIn = s.symIn := rfl
@[simp] theorem State.errorEntry_bitIn (s : State) (k : ErrorKind) (info : Nat) : (s.errorEntry k info).bitIn = s.bitIn := rfl
@[simp] theorem State.errorEntry_tsIn (s : State) (k : ErrorKind) (info : Nat) : (s.errorEntry k info).tsIn = s.tsIn := rfl
@[simp] theorem State.errorEntry_symOut (s : State) (k : ErrorKind) (info : Nat) : (s.errorEntry k info).symOut = [] := rfl
@[simp] theorem State.errorEntry_bitOut (s : State) (k : ErrorKind) (info : Nat) : (s.errorEntry k info).bitOut = [] := rfl
@[simp] theorem State.errorEntry_tsOut (s : State) (k : ErrorKind) (info : Nat) : (s.errorEntry k info).tsOut = [] := rfl
@[simp] theorem State.errorEntry_status (s : State) (k : ErrorKind) (info : Nat) : (s.errorEntry k info).status = statusWrite (statusWrite s.status .err true) .done false := rfl
@[simp] theorem State.errorEntry_errcode (s : State) (k : ErrorKind) (info : Nat) : (s.errorEntry k info).errcode = k.code := rfl
@[simp] theorem State.errorEntry_errinfo (s : State) (k : ErrorKind) (info : Nat) : (s.errorEntry k info).errinfo = info := rfl
@[simp] theorem State.errorEntry_tspos (s : State) (k : ErrorKind) (info : Nat) : (s.errorEntry k info).tspos = s.tspos := rfl
@[simp] theorem State.errorEntry_host (s : State) (k : ErrorKind) (info : Nat) : (s.errorEntry k info).host = s.host := rfl
@[simp] theorem State.errorEntry_seen (s : State) (k : ErrorKind) (info : Nat) : (s.errorEntry k info).seen = s.seen := rfl
@[simp] theorem State.errorEntry_epoch (s : State) (k : ErrorKind) (info : Nat) : (s.errorEntry k info).epoch = s.epoch := rfl

/-! `State.clearAll` writes everything but the host's fields (46_control.md R152). -/

@[simp] theorem State.clearAll_ft (s : State) : (s.clearAll).ft = Table.fill 0 := rfl
@[simp] theorem State.clearAll_tree (s : State) : (s.clearAll).tree = none := rfl
@[simp] theorem State.clearAll_ct (s : State) : (s.clearAll).ct = Table.fill none := rfl
@[simp] theorem State.clearAll_symIn (s : State) : (s.clearAll).symIn = { cells := [], len := 0 } := rfl
@[simp] theorem State.clearAll_bitIn (s : State) : (s.clearAll).bitIn = { cells := [], len := 0 } := rfl
@[simp] theorem State.clearAll_tsIn (s : State) : (s.clearAll).tsIn = { cells := [], len := 0 } := rfl
@[simp] theorem State.clearAll_symOut (s : State) : (s.clearAll).symOut = [] := rfl
@[simp] theorem State.clearAll_bitOut (s : State) : (s.clearAll).bitOut = [] := rfl
@[simp] theorem State.clearAll_tsOut (s : State) : (s.clearAll).tsOut = [] := rfl
@[simp] theorem State.clearAll_status (s : State) : (s.clearAll).status = statusWrite (statusWrite s.status .err false) .empty false := rfl
@[simp] theorem State.clearAll_errcode (s : State) : (s.clearAll).errcode = 0#8 := rfl
@[simp] theorem State.clearAll_errinfo (s : State) : (s.clearAll).errinfo = 0 := rfl
@[simp] theorem State.clearAll_tspos (s : State) : (s.clearAll).tspos = 0 := rfl
@[simp] theorem State.clearAll_host (s : State) : (s.clearAll).host = s.host := rfl
@[simp] theorem State.clearAll_seen (s : State) : (s.clearAll).seen = s.seen := rfl
@[simp] theorem State.clearAll_epoch (s : State) : (s.clearAll).epoch = s.epoch + 1 := rfl

/-! `State.resetEvent` writes everything but the host's fields (70_reset_and_hazards.md R190). -/

@[simp] theorem State.resetEvent_ft (s : State) : (s.resetEvent).ft = Table.fill 0 := rfl
@[simp] theorem State.resetEvent_tree (s : State) : (s.resetEvent).tree = none := rfl
@[simp] theorem State.resetEvent_ct (s : State) : (s.resetEvent).ct = Table.fill none := rfl
@[simp] theorem State.resetEvent_symIn (s : State) : (s.resetEvent).symIn = { cells := [], len := 0 } := rfl
@[simp] theorem State.resetEvent_bitIn (s : State) : (s.resetEvent).bitIn = { cells := [], len := 0 } := rfl
@[simp] theorem State.resetEvent_tsIn (s : State) : (s.resetEvent).tsIn = { cells := [], len := 0 } := rfl
@[simp] theorem State.resetEvent_symOut (s : State) : (s.resetEvent).symOut = [] := rfl
@[simp] theorem State.resetEvent_bitOut (s : State) : (s.resetEvent).bitOut = [] := rfl
@[simp] theorem State.resetEvent_tsOut (s : State) : (s.resetEvent).tsOut = [] := rfl
@[simp] theorem State.resetEvent_status (s : State) : (s.resetEvent).status = 0#8 := rfl
@[simp] theorem State.resetEvent_errcode (s : State) : (s.resetEvent).errcode = 0#8 := rfl
@[simp] theorem State.resetEvent_errinfo (s : State) : (s.resetEvent).errinfo = 0 := rfl
@[simp] theorem State.resetEvent_tspos (s : State) : (s.resetEvent).tspos = 0 := rfl
@[simp] theorem State.resetEvent_host (s : State) : (s.resetEvent).host = s.host := rfl
@[simp] theorem State.resetEvent_seen (s : State) : (s.resetEvent).seen = s.seen := rfl
@[simp] theorem State.resetEvent_epoch (s : State) : (s.resetEvent).epoch = s.epoch + 1 := rfl

/-! `State.writeSymOut` writes `symOut` alone. -/

@[simp] theorem State.writeSymOut_ft (s : State) (v : List Byte) : (s.writeSymOut v).ft = s.ft := rfl
@[simp] theorem State.writeSymOut_tree (s : State) (v : List Byte) : (s.writeSymOut v).tree = s.tree := rfl
@[simp] theorem State.writeSymOut_ct (s : State) (v : List Byte) : (s.writeSymOut v).ct = s.ct := rfl
@[simp] theorem State.writeSymOut_symIn (s : State) (v : List Byte) : (s.writeSymOut v).symIn = s.symIn := rfl
@[simp] theorem State.writeSymOut_bitIn (s : State) (v : List Byte) : (s.writeSymOut v).bitIn = s.bitIn := rfl
@[simp] theorem State.writeSymOut_tsIn (s : State) (v : List Byte) : (s.writeSymOut v).tsIn = s.tsIn := rfl
@[simp] theorem State.writeSymOut_symOut (s : State) (v : List Byte) : (s.writeSymOut v).symOut = v := rfl
@[simp] theorem State.writeSymOut_bitOut (s : State) (v : List Byte) : (s.writeSymOut v).bitOut = s.bitOut := rfl
@[simp] theorem State.writeSymOut_tsOut (s : State) (v : List Byte) : (s.writeSymOut v).tsOut = s.tsOut := rfl
@[simp] theorem State.writeSymOut_status (s : State) (v : List Byte) : (s.writeSymOut v).status = s.status := rfl
@[simp] theorem State.writeSymOut_errcode (s : State) (v : List Byte) : (s.writeSymOut v).errcode = s.errcode := rfl
@[simp] theorem State.writeSymOut_errinfo (s : State) (v : List Byte) : (s.writeSymOut v).errinfo = s.errinfo := rfl
@[simp] theorem State.writeSymOut_tspos (s : State) (v : List Byte) : (s.writeSymOut v).tspos = s.tspos := rfl
@[simp] theorem State.writeSymOut_host (s : State) (v : List Byte) : (s.writeSymOut v).host = s.host := rfl
@[simp] theorem State.writeSymOut_seen (s : State) (v : List Byte) : (s.writeSymOut v).seen = s.seen := rfl
@[simp] theorem State.writeSymOut_epoch (s : State) (v : List Byte) : (s.writeSymOut v).epoch = s.epoch := rfl

/-! `State.writeBitOut` writes `bitOut` alone. -/

@[simp] theorem State.writeBitOut_ft (s : State) (v : List Bit) : (s.writeBitOut v).ft = s.ft := rfl
@[simp] theorem State.writeBitOut_tree (s : State) (v : List Bit) : (s.writeBitOut v).tree = s.tree := rfl
@[simp] theorem State.writeBitOut_ct (s : State) (v : List Bit) : (s.writeBitOut v).ct = s.ct := rfl
@[simp] theorem State.writeBitOut_symIn (s : State) (v : List Bit) : (s.writeBitOut v).symIn = s.symIn := rfl
@[simp] theorem State.writeBitOut_bitIn (s : State) (v : List Bit) : (s.writeBitOut v).bitIn = s.bitIn := rfl
@[simp] theorem State.writeBitOut_tsIn (s : State) (v : List Bit) : (s.writeBitOut v).tsIn = s.tsIn := rfl
@[simp] theorem State.writeBitOut_symOut (s : State) (v : List Bit) : (s.writeBitOut v).symOut = s.symOut := rfl
@[simp] theorem State.writeBitOut_bitOut (s : State) (v : List Bit) : (s.writeBitOut v).bitOut = v := rfl
@[simp] theorem State.writeBitOut_tsOut (s : State) (v : List Bit) : (s.writeBitOut v).tsOut = s.tsOut := rfl
@[simp] theorem State.writeBitOut_status (s : State) (v : List Bit) : (s.writeBitOut v).status = s.status := rfl
@[simp] theorem State.writeBitOut_errcode (s : State) (v : List Bit) : (s.writeBitOut v).errcode = s.errcode := rfl
@[simp] theorem State.writeBitOut_errinfo (s : State) (v : List Bit) : (s.writeBitOut v).errinfo = s.errinfo := rfl
@[simp] theorem State.writeBitOut_tspos (s : State) (v : List Bit) : (s.writeBitOut v).tspos = s.tspos := rfl
@[simp] theorem State.writeBitOut_host (s : State) (v : List Bit) : (s.writeBitOut v).host = s.host := rfl
@[simp] theorem State.writeBitOut_seen (s : State) (v : List Bit) : (s.writeBitOut v).seen = s.seen := rfl
@[simp] theorem State.writeBitOut_epoch (s : State) (v : List Bit) : (s.writeBitOut v).epoch = s.epoch := rfl

/-! `State.writeTsOut` writes `tsOut` alone. -/

@[simp] theorem State.writeTsOut_ft (s : State) (v : List Byte) : (s.writeTsOut v).ft = s.ft := rfl
@[simp] theorem State.writeTsOut_tree (s : State) (v : List Byte) : (s.writeTsOut v).tree = s.tree := rfl
@[simp] theorem State.writeTsOut_ct (s : State) (v : List Byte) : (s.writeTsOut v).ct = s.ct := rfl
@[simp] theorem State.writeTsOut_symIn (s : State) (v : List Byte) : (s.writeTsOut v).symIn = s.symIn := rfl
@[simp] theorem State.writeTsOut_bitIn (s : State) (v : List Byte) : (s.writeTsOut v).bitIn = s.bitIn := rfl
@[simp] theorem State.writeTsOut_tsIn (s : State) (v : List Byte) : (s.writeTsOut v).tsIn = s.tsIn := rfl
@[simp] theorem State.writeTsOut_symOut (s : State) (v : List Byte) : (s.writeTsOut v).symOut = s.symOut := rfl
@[simp] theorem State.writeTsOut_bitOut (s : State) (v : List Byte) : (s.writeTsOut v).bitOut = s.bitOut := rfl
@[simp] theorem State.writeTsOut_tsOut (s : State) (v : List Byte) : (s.writeTsOut v).tsOut = v := rfl
@[simp] theorem State.writeTsOut_status (s : State) (v : List Byte) : (s.writeTsOut v).status = s.status := rfl
@[simp] theorem State.writeTsOut_errcode (s : State) (v : List Byte) : (s.writeTsOut v).errcode = s.errcode := rfl
@[simp] theorem State.writeTsOut_errinfo (s : State) (v : List Byte) : (s.writeTsOut v).errinfo = s.errinfo := rfl
@[simp] theorem State.writeTsOut_tspos (s : State) (v : List Byte) : (s.writeTsOut v).tspos = s.tspos := rfl
@[simp] theorem State.writeTsOut_host (s : State) (v : List Byte) : (s.writeTsOut v).host = s.host := rfl
@[simp] theorem State.writeTsOut_seen (s : State) (v : List Byte) : (s.writeTsOut v).seen = s.seen := rfl
@[simp] theorem State.writeTsOut_epoch (s : State) (v : List Byte) : (s.writeTsOut v).epoch = s.epoch := rfl

/-! `State.writeFt` writes `ft` alone. -/

@[simp] theorem State.writeFt_ft (s : State) (v : Table Nat) : (s.writeFt v).ft = v := rfl
@[simp] theorem State.writeFt_tree (s : State) (v : Table Nat) : (s.writeFt v).tree = s.tree := rfl
@[simp] theorem State.writeFt_ct (s : State) (v : Table Nat) : (s.writeFt v).ct = s.ct := rfl
@[simp] theorem State.writeFt_symIn (s : State) (v : Table Nat) : (s.writeFt v).symIn = s.symIn := rfl
@[simp] theorem State.writeFt_bitIn (s : State) (v : Table Nat) : (s.writeFt v).bitIn = s.bitIn := rfl
@[simp] theorem State.writeFt_tsIn (s : State) (v : Table Nat) : (s.writeFt v).tsIn = s.tsIn := rfl
@[simp] theorem State.writeFt_symOut (s : State) (v : Table Nat) : (s.writeFt v).symOut = s.symOut := rfl
@[simp] theorem State.writeFt_bitOut (s : State) (v : Table Nat) : (s.writeFt v).bitOut = s.bitOut := rfl
@[simp] theorem State.writeFt_tsOut (s : State) (v : Table Nat) : (s.writeFt v).tsOut = s.tsOut := rfl
@[simp] theorem State.writeFt_status (s : State) (v : Table Nat) : (s.writeFt v).status = s.status := rfl
@[simp] theorem State.writeFt_errcode (s : State) (v : Table Nat) : (s.writeFt v).errcode = s.errcode := rfl
@[simp] theorem State.writeFt_errinfo (s : State) (v : Table Nat) : (s.writeFt v).errinfo = s.errinfo := rfl
@[simp] theorem State.writeFt_tspos (s : State) (v : Table Nat) : (s.writeFt v).tspos = s.tspos := rfl
@[simp] theorem State.writeFt_host (s : State) (v : Table Nat) : (s.writeFt v).host = s.host := rfl
@[simp] theorem State.writeFt_seen (s : State) (v : Table Nat) : (s.writeFt v).seen = s.seen := rfl
@[simp] theorem State.writeFt_epoch (s : State) (v : Table Nat) : (s.writeFt v).epoch = s.epoch := rfl

/-! `State.writeTree` writes `tree` alone. -/

@[simp] theorem State.writeTree_ft (s : State) (v : Option Tree) : (s.writeTree v).ft = s.ft := rfl
@[simp] theorem State.writeTree_tree (s : State) (v : Option Tree) : (s.writeTree v).tree = v := rfl
@[simp] theorem State.writeTree_ct (s : State) (v : Option Tree) : (s.writeTree v).ct = s.ct := rfl
@[simp] theorem State.writeTree_symIn (s : State) (v : Option Tree) : (s.writeTree v).symIn = s.symIn := rfl
@[simp] theorem State.writeTree_bitIn (s : State) (v : Option Tree) : (s.writeTree v).bitIn = s.bitIn := rfl
@[simp] theorem State.writeTree_tsIn (s : State) (v : Option Tree) : (s.writeTree v).tsIn = s.tsIn := rfl
@[simp] theorem State.writeTree_symOut (s : State) (v : Option Tree) : (s.writeTree v).symOut = s.symOut := rfl
@[simp] theorem State.writeTree_bitOut (s : State) (v : Option Tree) : (s.writeTree v).bitOut = s.bitOut := rfl
@[simp] theorem State.writeTree_tsOut (s : State) (v : Option Tree) : (s.writeTree v).tsOut = s.tsOut := rfl
@[simp] theorem State.writeTree_status (s : State) (v : Option Tree) : (s.writeTree v).status = s.status := rfl
@[simp] theorem State.writeTree_errcode (s : State) (v : Option Tree) : (s.writeTree v).errcode = s.errcode := rfl
@[simp] theorem State.writeTree_errinfo (s : State) (v : Option Tree) : (s.writeTree v).errinfo = s.errinfo := rfl
@[simp] theorem State.writeTree_tspos (s : State) (v : Option Tree) : (s.writeTree v).tspos = s.tspos := rfl
@[simp] theorem State.writeTree_host (s : State) (v : Option Tree) : (s.writeTree v).host = s.host := rfl
@[simp] theorem State.writeTree_seen (s : State) (v : Option Tree) : (s.writeTree v).seen = s.seen := rfl
@[simp] theorem State.writeTree_epoch (s : State) (v : Option Tree) : (s.writeTree v).epoch = s.epoch := rfl

/-! `State.writeCt` writes `ct` alone. -/

@[simp] theorem State.writeCt_ft (s : State) (v : Table (Option (List Bit))) : (s.writeCt v).ft = s.ft := rfl
@[simp] theorem State.writeCt_tree (s : State) (v : Table (Option (List Bit))) : (s.writeCt v).tree = s.tree := rfl
@[simp] theorem State.writeCt_ct (s : State) (v : Table (Option (List Bit))) : (s.writeCt v).ct = v := rfl
@[simp] theorem State.writeCt_symIn (s : State) (v : Table (Option (List Bit))) : (s.writeCt v).symIn = s.symIn := rfl
@[simp] theorem State.writeCt_bitIn (s : State) (v : Table (Option (List Bit))) : (s.writeCt v).bitIn = s.bitIn := rfl
@[simp] theorem State.writeCt_tsIn (s : State) (v : Table (Option (List Bit))) : (s.writeCt v).tsIn = s.tsIn := rfl
@[simp] theorem State.writeCt_symOut (s : State) (v : Table (Option (List Bit))) : (s.writeCt v).symOut = s.symOut := rfl
@[simp] theorem State.writeCt_bitOut (s : State) (v : Table (Option (List Bit))) : (s.writeCt v).bitOut = s.bitOut := rfl
@[simp] theorem State.writeCt_tsOut (s : State) (v : Table (Option (List Bit))) : (s.writeCt v).tsOut = s.tsOut := rfl
@[simp] theorem State.writeCt_status (s : State) (v : Table (Option (List Bit))) : (s.writeCt v).status = s.status := rfl
@[simp] theorem State.writeCt_errcode (s : State) (v : Table (Option (List Bit))) : (s.writeCt v).errcode = s.errcode := rfl
@[simp] theorem State.writeCt_errinfo (s : State) (v : Table (Option (List Bit))) : (s.writeCt v).errinfo = s.errinfo := rfl
@[simp] theorem State.writeCt_tspos (s : State) (v : Table (Option (List Bit))) : (s.writeCt v).tspos = s.tspos := rfl
@[simp] theorem State.writeCt_host (s : State) (v : Table (Option (List Bit))) : (s.writeCt v).host = s.host := rfl
@[simp] theorem State.writeCt_seen (s : State) (v : Table (Option (List Bit))) : (s.writeCt v).seen = s.seen := rfl
@[simp] theorem State.writeCt_epoch (s : State) (v : Table (Option (List Bit))) : (s.writeCt v).epoch = s.epoch := rfl

/-! `State.writeTspos` writes `tspos` alone. -/

@[simp] theorem State.writeTspos_ft (s : State) (v : Nat) : (s.writeTspos v).ft = s.ft := rfl
@[simp] theorem State.writeTspos_tree (s : State) (v : Nat) : (s.writeTspos v).tree = s.tree := rfl
@[simp] theorem State.writeTspos_ct (s : State) (v : Nat) : (s.writeTspos v).ct = s.ct := rfl
@[simp] theorem State.writeTspos_symIn (s : State) (v : Nat) : (s.writeTspos v).symIn = s.symIn := rfl
@[simp] theorem State.writeTspos_bitIn (s : State) (v : Nat) : (s.writeTspos v).bitIn = s.bitIn := rfl
@[simp] theorem State.writeTspos_tsIn (s : State) (v : Nat) : (s.writeTspos v).tsIn = s.tsIn := rfl
@[simp] theorem State.writeTspos_symOut (s : State) (v : Nat) : (s.writeTspos v).symOut = s.symOut := rfl
@[simp] theorem State.writeTspos_bitOut (s : State) (v : Nat) : (s.writeTspos v).bitOut = s.bitOut := rfl
@[simp] theorem State.writeTspos_tsOut (s : State) (v : Nat) : (s.writeTspos v).tsOut = s.tsOut := rfl
@[simp] theorem State.writeTspos_status (s : State) (v : Nat) : (s.writeTspos v).status = s.status := rfl
@[simp] theorem State.writeTspos_errcode (s : State) (v : Nat) : (s.writeTspos v).errcode = s.errcode := rfl
@[simp] theorem State.writeTspos_errinfo (s : State) (v : Nat) : (s.writeTspos v).errinfo = s.errinfo := rfl
@[simp] theorem State.writeTspos_tspos (s : State) (v : Nat) : (s.writeTspos v).tspos = v := rfl
@[simp] theorem State.writeTspos_host (s : State) (v : Nat) : (s.writeTspos v).host = s.host := rfl
@[simp] theorem State.writeTspos_seen (s : State) (v : Nat) : (s.writeTspos v).seen = s.seen := rfl
@[simp] theorem State.writeTspos_epoch (s : State) (v : Nat) : (s.writeTspos v).epoch = s.epoch := rfl

/-! `State.invalidateCt` writes CT alone. -/

@[simp] theorem State.invalidateCt_ft (s : State) : (s.invalidateCt).ft = s.ft := rfl
@[simp] theorem State.invalidateCt_tree (s : State) : (s.invalidateCt).tree = s.tree := rfl
@[simp] theorem State.invalidateCt_ct (s : State) : (s.invalidateCt).ct = noCodes := rfl
@[simp] theorem State.invalidateCt_symIn (s : State) : (s.invalidateCt).symIn = s.symIn := rfl
@[simp] theorem State.invalidateCt_bitIn (s : State) : (s.invalidateCt).bitIn = s.bitIn := rfl
@[simp] theorem State.invalidateCt_tsIn (s : State) : (s.invalidateCt).tsIn = s.tsIn := rfl
@[simp] theorem State.invalidateCt_symOut (s : State) : (s.invalidateCt).symOut = s.symOut := rfl
@[simp] theorem State.invalidateCt_bitOut (s : State) : (s.invalidateCt).bitOut = s.bitOut := rfl
@[simp] theorem State.invalidateCt_tsOut (s : State) : (s.invalidateCt).tsOut = s.tsOut := rfl
@[simp] theorem State.invalidateCt_status (s : State) : (s.invalidateCt).status = s.status := rfl
@[simp] theorem State.invalidateCt_errcode (s : State) : (s.invalidateCt).errcode = s.errcode := rfl
@[simp] theorem State.invalidateCt_errinfo (s : State) : (s.invalidateCt).errinfo = s.errinfo := rfl
@[simp] theorem State.invalidateCt_tspos (s : State) : (s.invalidateCt).tspos = s.tspos := rfl
@[simp] theorem State.invalidateCt_host (s : State) : (s.invalidateCt).host = s.host := rfl
@[simp] theorem State.invalidateCt_seen (s : State) : (s.invalidateCt).seen = s.seen := rfl
@[simp] theorem State.invalidateCt_epoch (s : State) : (s.invalidateCt).epoch = s.epoch := rfl

/-! `State.startDeserialize` writes CT, TREE, TSPOS and EMPTY (45_serialize.md R135). -/

@[simp] theorem State.startDeserialize_ft (s : State) : (s.startDeserialize).ft = s.ft := rfl
@[simp] theorem State.startDeserialize_tree (s : State) : (s.startDeserialize).tree = none := rfl
@[simp] theorem State.startDeserialize_ct (s : State) : (s.startDeserialize).ct = noCodes := rfl
@[simp] theorem State.startDeserialize_symIn (s : State) : (s.startDeserialize).symIn = s.symIn := rfl
@[simp] theorem State.startDeserialize_bitIn (s : State) : (s.startDeserialize).bitIn = s.bitIn := rfl
@[simp] theorem State.startDeserialize_tsIn (s : State) : (s.startDeserialize).tsIn = s.tsIn := rfl
@[simp] theorem State.startDeserialize_symOut (s : State) : (s.startDeserialize).symOut = s.symOut := rfl
@[simp] theorem State.startDeserialize_bitOut (s : State) : (s.startDeserialize).bitOut = s.bitOut := rfl
@[simp] theorem State.startDeserialize_tsOut (s : State) : (s.startDeserialize).tsOut = s.tsOut := rfl
@[simp] theorem State.startDeserialize_status (s : State) : (s.startDeserialize).status = statusWrite s.status .empty (s.tsIn.len == 0) := rfl
@[simp] theorem State.startDeserialize_errcode (s : State) : (s.startDeserialize).errcode = s.errcode := rfl
@[simp] theorem State.startDeserialize_errinfo (s : State) : (s.startDeserialize).errinfo = s.errinfo := rfl
@[simp] theorem State.startDeserialize_tspos (s : State) : (s.startDeserialize).tspos = 0 := rfl
@[simp] theorem State.startDeserialize_host (s : State) : (s.startDeserialize).host = s.host := rfl
@[simp] theorem State.startDeserialize_seen (s : State) : (s.startDeserialize).seen = s.seen := rfl
@[simp] theorem State.startDeserialize_epoch (s : State) : (s.startDeserialize).epoch = s.epoch := rfl

end Sys2Proof.Machine
end

