-- ==== Sys2Proof/Laws/Flags.lean ====
section
/-! SUPPORT. STATUS (10_state.md R21): reading a flag after writing one, and the reserved bits. -/

namespace Sys2Proof.Machine

theorem getLsbD_statusWrite (v : BitVec 8) (f g : StatusFlag) (b : Bool) :
    (statusWrite v f b).getLsbD (flagBit g) = if g = f then b else v.getLsbD (flagBit g) := by
  revert v; cases f <;> cases g <;> cases b <;> decide +kernel

/-- The reserved bits [7:3] are as before after a flag is written. -/
@[simp] theorem reserved_statusWrite (v : BitVec 8) (f : StatusFlag) (b : Bool) :
    (statusWrite v f b).extractLsb' 3 5 = v.extractLsb' 3 5 := by
  revert v; cases f <;> cases b <;> decide +kernel

/-- The clearing of DONE at acceptance is not observable (10_state.md R21): DONE is written again at the end. -/
@[simp] theorem statusWrite_statusWrite (v : BitVec 8) (f : StatusFlag) (b c : Bool) :
    statusWrite (statusWrite v f b) f c = statusWrite v f c := by
  revert v; cases f <;> cases b <;> cases c <;> decide +kernel

/-- STATUS after CLEAR is 0x01 when its reserved bits read 0 (46_control.md R152). -/
theorem statusWrite_clear (v : BitVec 8) (h : v.extractLsb' 3 5 = 0#5) :
    statusWrite (statusWrite (statusWrite v .err false) .empty false) .done true = 0x01#8 := by
  revert v; decide +kernel

/-- STATUS is its three flags and its reserved bits. -/
theorem status_ext {v w : BitVec 8} (hf : ∀ f, v.getLsbD (flagBit f) = w.getLsbD (flagBit f))
    (hr : v.extractLsb' 3 5 = w.extractLsb' 3 5) : v = w := by
  have h0 := hf .done
  have h1 := hf .err
  have h2 := hf .empty
  refine BitVec.eq_of_getLsbD_eq fun i hi => ?_
  have hr' : ∀ j, j < 5 → v.getLsbD (3 + j) = w.getLsbD (3 + j) := fun j hj => by
    have := congrArg (fun x : BitVec 5 => x.getLsbD j) hr
    simpa [BitVec.getLsbD_extractLsb', hj] using this
  obtain rfl | rfl | rfl | h : i = 0 ∨ i = 1 ∨ i = 2 ∨ 3 ≤ i := by omega
  · exact h0
  · exact h1
  · exact h2
  · obtain ⟨j, rfl⟩ := Nat.exists_eq_add_of_le h
    exact hr' j (by omega)

@[simp] theorem State.setFlag_flag (s : State) (f g : StatusFlag) (b : Bool) :
    (s.setFlag f b).flag g = if g = f then b else s.flag g := getLsbD_statusWrite _ _ _ _

@[simp] theorem State.setFlag_done (s : State) (f : StatusFlag) (b : Bool) :
    (s.setFlag f b).done = if .done = f then b else s.done := getLsbD_statusWrite _ _ .done _

@[simp] theorem State.setFlag_err (s : State) (f : StatusFlag) (b : Bool) :
    (s.setFlag f b).err = if .err = f then b else s.err := getLsbD_statusWrite _ _ .err _

@[simp] theorem State.setFlag_empty (s : State) (f : StatusFlag) (b : Bool) :
    (s.setFlag f b).empty = if .empty = f then b else s.empty := getLsbD_statusWrite _ _ .empty _

@[simp] theorem State.setEmptyOf_done (s : State) (n : Nat) : (s.setEmptyOf n).done = s.done := by
  simp [State.setEmptyOf]

@[simp] theorem State.setEmptyOf_err (s : State) (n : Nat) : (s.setEmptyOf n).err = s.err := by
  simp [State.setEmptyOf]

@[simp] theorem State.setEmptyOf_empty (s : State) (n : Nat) : (s.setEmptyOf n).empty = (n == 0) := by
  simp [State.setEmptyOf]

@[simp] theorem State.clearAll_err (s : State) : s.clearAll.err = false := by
  show (statusWrite (statusWrite s.status .err false) .empty false).getLsbD (flagBit .err) = false
  simp [getLsbD_statusWrite]

@[simp] theorem State.clearAll_empty (s : State) : s.clearAll.empty = false := by
  show (statusWrite (statusWrite s.status .err false) .empty false).getLsbD (flagBit .empty) = false
  simp [getLsbD_statusWrite]

@[simp] theorem State.errorEntry_err (s : State) (k : ErrorKind) (n : Nat) : (s.errorEntry k n).err = true := by
  show (statusWrite (statusWrite s.status .err true) .done false).getLsbD (flagBit .err) = true
  simp [getLsbD_statusWrite]

@[simp] theorem State.errorEntry_done (s : State) (k : ErrorKind) (n : Nat) : (s.errorEntry k n).done = false := by
  show (statusWrite (statusWrite s.status .err true) .done false).getLsbD (flagBit .done) = false
  simp [getLsbD_statusWrite]

@[simp] theorem State.errorEntry_empty (s : State) (k : ErrorKind) (n : Nat) : (s.errorEntry k n).empty = s.empty := by
  show (statusWrite (statusWrite s.status .err true) .done false).getLsbD (flagBit .empty) = _
  simp [getLsbD_statusWrite, State.empty, State.flag]

/-- A flag is a function of STATUS alone. -/
theorem State.flag_congr {s t : State} (h : t.status = s.status) (f : StatusFlag) : t.flag f = s.flag f := by
  simp [State.flag, h]

@[simp] theorem State.writeSymOut_done (s : State) (v : List Byte) : (s.writeSymOut v).done = s.done := rfl
@[simp] theorem State.writeSymOut_err (s : State) (v : List Byte) : (s.writeSymOut v).err = s.err := rfl
@[simp] theorem State.writeSymOut_empty (s : State) (v : List Byte) : (s.writeSymOut v).empty = s.empty := rfl
@[simp] theorem State.writeBitOut_done (s : State) (v : List Bit) : (s.writeBitOut v).done = s.done := rfl
@[simp] theorem State.writeBitOut_err (s : State) (v : List Bit) : (s.writeBitOut v).err = s.err := rfl
@[simp] theorem State.writeBitOut_empty (s : State) (v : List Bit) : (s.writeBitOut v).empty = s.empty := rfl
@[simp] theorem State.writeTsOut_done (s : State) (v : List Byte) : (s.writeTsOut v).done = s.done := rfl
@[simp] theorem State.writeTsOut_err (s : State) (v : List Byte) : (s.writeTsOut v).err = s.err := rfl
@[simp] theorem State.writeTsOut_empty (s : State) (v : List Byte) : (s.writeTsOut v).empty = s.empty := rfl
@[simp] theorem State.writeFt_done (s : State) (v : Table Nat) : (s.writeFt v).done = s.done := rfl
@[simp] theorem State.writeFt_err (s : State) (v : Table Nat) : (s.writeFt v).err = s.err := rfl
@[simp] theorem State.writeFt_empty (s : State) (v : Table Nat) : (s.writeFt v).empty = s.empty := rfl
@[simp] theorem State.writeTree_done (s : State) (v : Option Tree) : (s.writeTree v).done = s.done := rfl
@[simp] theorem State.writeTree_err (s : State) (v : Option Tree) : (s.writeTree v).err = s.err := rfl
@[simp] theorem State.writeTree_empty (s : State) (v : Option Tree) : (s.writeTree v).empty = s.empty := rfl
@[simp] theorem State.writeCt_done (s : State) (v : Table (Option (List Bit))) : (s.writeCt v).done = s.done := rfl
@[simp] theorem State.writeCt_err (s : State) (v : Table (Option (List Bit))) : (s.writeCt v).err = s.err := rfl
@[simp] theorem State.writeCt_empty (s : State) (v : Table (Option (List Bit))) : (s.writeCt v).empty = s.empty := rfl
@[simp] theorem State.writeTspos_done (s : State) (v : Nat) : (s.writeTspos v).done = s.done := rfl
@[simp] theorem State.writeTspos_err (s : State) (v : Nat) : (s.writeTspos v).err = s.err := rfl
@[simp] theorem State.writeTspos_empty (s : State) (v : Nat) : (s.writeTspos v).empty = s.empty := rfl
@[simp] theorem State.invalidateCt_done (s : State) : s.invalidateCt.done = s.done := rfl
@[simp] theorem State.invalidateCt_err (s : State) : s.invalidateCt.err = s.err := rfl
@[simp] theorem State.invalidateCt_empty (s : State) : s.invalidateCt.empty = s.empty := rfl

@[simp] theorem State.startDeserialize_done (s : State) : s.startDeserialize.done = s.done := by
  simp [State.startDeserialize]

@[simp] theorem State.startDeserialize_err (s : State) : s.startDeserialize.err = s.err := by
  simp [State.startDeserialize]

@[simp] theorem State.startDeserialize_empty (s : State) : s.startDeserialize.empty = (s.tsIn.len == 0) := by
  simp [State.startDeserialize]

end Sys2Proof.Machine
end

