-- ==== Sys2Proof/Laws/Ops.lean ====
section
/-! SUPPORT. What each shared operation can do: element storage (read after write, the canonical form), tables, the
acceptance of a command and sequencing. -/

namespace Sys2Proof.Machine

/-! ### Element storage -/

/-- Read after write: the written index holds the value, every other index what it held. -/
theorem Memory.read?_write {α : Type} (m : Memory α) (a b : Nat) (v : α) (hm : Memory.wf m = true) :
    Memory.read? (Memory.write m a v) b = if b = a then some v else Memory.read? m b := by
  induction m with
  | nil => simp [Memory.write, Memory.read?]
  | cons c rest ih =>
    obtain ⟨c, w⟩ := c
    have hrest : Memory.wf rest = true := by
      cases rest <;> simp_all [Memory.wf]
    simp only [Memory.write]
    split
    · simp [Memory.read?]
    · split
      · subst_vars
        simp only [Memory.read?]
        split <;> simp_all
      · simp only [Memory.read?, ih hrest]
        split <;> split <;> simp_all

/-- Read after write at the index written, in any storage. -/
theorem Memory.read?_write_self {α : Type} (m : Memory α) (a : Nat) (v : α) :
    Memory.read? (Memory.write m a v) a = some v := by
  induction m with
  | nil => simp [Memory.write, Memory.read?]
  | cons c rest ih =>
    obtain ⟨c, w⟩ := c
    simp only [Memory.write]
    split
    · simp [Memory.read?]
    · split
      · simp [Memory.read?]
      · simp [Memory.read?, *]

/-- A write leaves every other index alone, in any storage. -/
theorem Memory.read?_write_other {α : Type} (m : Memory α) (a b : Nat) (v : α) (h : b ≠ a) :
    Memory.read? (Memory.write m a v) b = Memory.read? m b := by
  induction m with
  | nil => simp [Memory.write, Memory.read?, h]
  | cons c rest ih =>
    obtain ⟨c, w⟩ := c
    simp only [Memory.write]
    split
    · simp [Memory.read?, h]
    · split
      · subst_vars
        simp [Memory.read?, h]
      · simp [Memory.read?, ih]

/-- The head of storage in canonical form lies below every later index. -/
theorem Memory.wf_cons {α : Type} (a : Nat) (v : α) (m : Memory α) :
    Memory.wf ((a, v) :: m) = true ↔ (∀ c, m.head? = some c → a < c.1) ∧ Memory.wf m = true := by
  cases m with
  | nil => simp [Memory.wf]
  | cons c rest => obtain ⟨b, w⟩ := c; simp [Memory.wf]

/-- A write keeps the canonical form. -/
theorem Memory.wf_write {α : Type} (m : Memory α) (a : Nat) (v : α) (h : Memory.wf m = true) :
    Memory.wf (Memory.write m a v) = true := by
  induction m with
  | nil => rfl
  | cons c rest ih =>
    obtain ⟨c, w⟩ := c
    rw [Memory.wf_cons] at h
    simp only [Memory.write]
    split
    · rw [Memory.wf_cons]
      exact ⟨by simpa, by rwa [Memory.wf_cons]⟩
    · split
      · subst_vars
        rwa [Memory.wf_cons]
      · rw [Memory.wf_cons]
        refine ⟨fun d hd => ?_, ih h.2⟩
        cases rest with
        | nil =>
          simp only [Memory.write, List.head?_cons, Option.some.injEq] at hd
          subst hd; simp only; omega
        | cons e rest' =>
          obtain ⟨e, x⟩ := e
          have := h.1 (e, x) rfl
          simp only [Memory.write] at hd
          split at hd
          · simp only [List.head?_cons, Option.some.injEq] at hd
            subst hd; simp only; omega
          · split at hd <;> (simp only [List.head?_cons, Option.some.injEq] at hd; subst hd; simp only at *; omega)

/-- The storage of the three input buffers is canonical after reset. -/
theorem Memory.wf_reset :
    Memory.wf State.reset.symIn.cells = true ∧ Memory.wf State.reset.bitIn.cells = true ∧
      Memory.wf State.reset.tsIn.cells = true := ⟨rfl, rfl, rfl⟩

/-! ### Tables -/

theorem Table.get_put {α : Type} (t : Table α) (s u : Byte) (v : α) :
    Table.get (Table.put t s v) u = if u = s then v else Table.get t u := by
  simp only [Table.get, Table.put, Vector.getElem_set]
  by_cases h : u = s
  · simp [h]
  · have h' : s.toNat ≠ u.toNat := fun e => h (BitVec.eq_of_toNat_eq e.symm)
    simp [h, h']

@[simp] theorem Table.get_put_self {α : Type} (t : Table α) (s : Byte) (v : α) :
    Table.get (Table.put t s v) s = v := by simp [Table.get_put]

@[simp] theorem Table.get_fill {α : Type} (v : α) (s : Byte) : Table.get (Table.fill v) s = v := by
  simp [Table.get, Table.fill]

@[simp] theorem Table.get_noCodes (s : Byte) : Table.get noCodes s = none := by simp [noCodes]

/-- Two tables that agree at every symbol are one table. -/
theorem Table.ext {α : Type} {t u : Table α} (h : ∀ s, Table.get t s = Table.get u s) : t = u := by
  refine Vector.ext fun i hi => ?_
  have := h (BitVec.ofNat 8 i)
  have hi' : (BitVec.ofNat 8 i).toNat = i := by simp; omega
  simpa [Table.get, hi'] using this

/-- `allSymbols` lists every symbol. -/
@[simp] theorem mem_allSymbols (s : Byte) : s ∈ allSymbols := by
  simp only [allSymbols, List.mem_map, List.mem_range]
  exact ⟨s.toNat, s.isLt, by simp⟩

/-- `allSymbols` lists every symbol once. -/
theorem nodup_allSymbols : allSymbols.Nodup := by decide +kernel

@[simp] theorem length_allSymbols : allSymbols.length = 256 := by simp [allSymbols]

/-! ### The acceptance of a command -/

/-- While ERR = 1 a command is ignored (60_exceptions.md R172). -/
theorem accept_of_err {s : State} (body : State → Ending) (h : s.err = true) : accept body s = .next s := by
  simp [accept, h]

/-- With ERR = 0 a command runs from DONE = 0 to its end (30_encoding.md R62 steps 2, 4, 5). -/
theorem accept_of_ok {s : State} (body : State → Ending) (h : s.err = false) :
    accept body s = .next (body (s.setFlag .done false)).state := by
  simp [accept, h, acceptAlways]

/-- Everything the acceptance of a command can do. -/
theorem accept_next {s t : State} {body : State → Ending} (h : accept body s = .next t) :
    (s.err = true ∧ t = s) ∨ (s.err = false ∧ t = (body (s.setFlag .done false)).state) := by
  cases hs : s.err with
  | true => rw [accept_of_err body hs] at h; cases h; exact .inl ⟨rfl, rfl⟩
  | false => rw [accept_of_ok body hs] at h; cases h; exact .inr ⟨rfl, rfl⟩

@[simp] theorem Ending.state_completed (s : State) : (Ending.completed s).state = s.setFlag .done true := rfl

@[simp] theorem Ending.state_raised (k : ErrorKind) (n : Nat) (s : State) :
    (Ending.raised k n s).state = s.errorEntry k n := rfl

/-! ### Sequencing -/

@[simp] theorem andThen_next {σ τ : Type} (s : σ) (k : σ → Host.Outcome τ Fault Refusal) :
    andThen (.next s) k = k s := rfl

/-- Two outcomes in a row that end in a next state go through a state between. -/
theorem andThen_eq_next {σ τ : Type} {o : Host.Outcome σ Fault Refusal} {k : σ → Host.Outcome τ Fault Refusal}
    {t : τ} : andThen o k = .next t ↔ ∃ s, o = .next s ∧ k s = .next t := by
  cases o with
  | next s => simp
  | fault r => nomatch r
  | refused r => simp [andThen]

end Sys2Proof.Machine
end

