-- ==== Sys2Proof/Laws/Operands.lean ====
section
/-! SUPPORT. The input sequences: their length and elements, and what they depend on. -/

namespace Sys2Proof.Machine

@[simp] theorem State.length_symInSeq (s : State) : s.symInSeq.length = s.symIn.len := by simp [State.symInSeq]

@[simp] theorem State.length_bitInSeq (s : State) : s.bitInSeq.length = s.bitIn.len := by simp [State.bitInSeq]

@[simp] theorem State.length_tsInSeq (s : State) : s.tsInSeq.length = s.tsIn.len := by simp [State.tsInSeq]

@[simp] theorem State.getElem_symInSeq (s : State) (i : Nat) (h : i < s.symInSeq.length) :
    s.symInSeq[i] = s.symInAt i := by simp [State.symInSeq]

@[simp] theorem State.getElem_bitInSeq (s : State) (i : Nat) (h : i < s.bitInSeq.length) :
    s.bitInSeq[i] = s.bitInAt i := by simp [State.bitInSeq]

@[simp] theorem State.getElem_tsInSeq (s : State) (i : Nat) (h : i < s.tsInSeq.length) :
    s.tsInSeq[i] = s.tsInAt i := by simp [State.tsInSeq]

/-- The sequence in SYM_IN depends on SYM_IN and the storage epoch alone. -/
theorem State.symInSeq_congr {s t : State} (h : t.symIn = s.symIn) (he : t.epoch = s.epoch) :
    t.symInSeq = s.symInSeq := by
  have hf : t.symInAt = s.symInAt := by funext i; simp [State.symInAt, h, he]
  simp [State.symInSeq, h, hf]

/-- The sequence in BIT_IN depends on BIT_IN and the storage epoch alone. -/
theorem State.bitInSeq_congr {s t : State} (h : t.bitIn = s.bitIn) (he : t.epoch = s.epoch) :
    t.bitInSeq = s.bitInSeq := by
  have hf : t.bitInAt = s.bitInAt := by funext i; simp [State.bitInAt, h, he]
  simp [State.bitInSeq, h, hf]

/-- The sequence in TS_IN depends on TS_IN and the storage epoch alone. -/
theorem State.tsInSeq_congr {s t : State} (h : t.tsIn = s.tsIn) (he : t.epoch = s.epoch) :
    t.tsInSeq = s.tsInSeq := by
  have hf : t.tsInAt = s.tsInAt := by funext i; simp [State.tsInAt, h, he]
  simp [State.tsInSeq, h, hf]

@[simp] theorem State.symInSeq_setFlag (s : State) (f : StatusFlag) (b : Bool) :
    (s.setFlag f b).symInSeq = s.symInSeq := State.symInSeq_congr rfl rfl

@[simp] theorem State.bitInSeq_setFlag (s : State) (f : StatusFlag) (b : Bool) :
    (s.setFlag f b).bitInSeq = s.bitInSeq := State.bitInSeq_congr rfl rfl

@[simp] theorem State.tsInSeq_setFlag (s : State) (f : StatusFlag) (b : Bool) :
    (s.setFlag f b).tsInSeq = s.tsInSeq := State.tsInSeq_congr rfl rfl

end Sys2Proof.Machine
end

