-- ==== Sys2Proof/Laws/Engine.lean ====
section
/-! SUPPORT. The loops of the engines: one lemma that says what each can do, and that no fuel runs out. -/

namespace Sys2Proof.Machine

/-- The counting loop adds to each entry the number of times its symbol occurs (40_count.md R80). -/
theorem get_countInto (ft : Table Nat) (l : List Byte) (s : Byte) :
    Table.get (countInto ft l) s = Table.get ft s + l.count s := by
  induction l generalizing ft with
  | nil => simp [countInto]
  | cons u rest ih =>
    simp only [countInto, ih, Table.get_put, List.count_cons]
    by_cases h : s = u
    · simp [h]; omega
    · simp [h, Ne.symm h]

/-- The all-zero test of BUILD (41_build.md R90). -/
theorem allZero_iff (ft : Table Nat) : allZero ft = true ↔ ∀ s, Table.get ft s = 0 := by
  simp [allZero]

/-- Extraction fails on the empty queue alone. -/
theorem extractMin_eq_none (pq : List QueueEntry) : extractMin pq = none ↔ pq = [] := by
  cases pq with
  | nil => simp [extractMin]
  | cons e rest =>
    simp only [extractMin]
    split
    · simp
    · split <;> simp

/-- Extraction takes one element out and loses none. -/
theorem extractMin_perm {pq rest : List QueueEntry} {e : QueueEntry} (h : extractMin pq = some (e, rest)) :
    pq.Perm (e :: rest) := by
  induction pq generalizing e rest with
  | nil => simp [extractMin] at h
  | cons a as ih =>
    simp only [extractMin] at h
    split at h
    · next hn =>
      rw [extractMin_eq_none] at hn
      cases h
      simp [hn]
    · next m rest' hm =>
      split at h
      · cases h
        exact (List.Perm.cons a (ih hm)).trans (List.Perm.swap _ _ _)
      · cases h
        exact List.Perm.cons _ (ih hm)

theorem extractMin_length {pq rest : List QueueEntry} {e : QueueEntry} (h : extractMin pq = some (e, rest)) :
    pq.length = rest.length + 1 := by simpa using (extractMin_perm h).length_eq

/-- The merge loop ends with a tree from every queue that is not empty: fuel of its size is enough. -/
theorem mergeLoop_isSome (fuel seq : Nat) (pq : List QueueEntry) (h0 : pq ≠ []) (h : pq.length ≤ fuel) :
    (mergeLoop fuel seq pq).isSome := by
  induction fuel generalizing seq pq with
  | zero => exact absurd (List.length_eq_zero_iff.mp (by omega)) h0
  | succ fuel ih =>
    simp only [mergeLoop]
    split
    · next hn => exact absurd ((extractMin_eq_none pq).mp hn) h0
    · next a pq1 ha =>
      split
      · rfl
      · next b pq2 hb =>
        refine ih _ _ (by simp) ?_
        have := extractMin_length ha
        have := extractMin_length hb
        simp only [List.length_cons]
        omega

/-- The symbols of the leaves that enter the queue are the keys among those looked at. -/
theorem leafEntries_eq_nil (ft : Table Nat) (l : List Byte) (seq : Nat) :
    leafEntries ft l seq = [] ↔ ∀ s ∈ l, Table.get ft s = 0 := by
  induction l generalizing seq with
  | nil => simp [leafEntries]
  | cons s rest ih =>
    simp only [leafEntries]
    split
    · simp_all; omega
    · simp_all

/-- BUILD's merge gives no tree exactly for the all-zero table (41_build.md R90, R91). -/
theorem buildTree_isSome (ft : Table Nat) : (buildTree ft).isSome ↔ allZero ft = false := by
  constructor
  · intro h
    by_contra hz
    have hz : allZero ft = true := by simpa using hz
    have : leafEntries ft allSymbols 0 = [] :=
      (leafEntries_eq_nil ft allSymbols 0).mpr fun s _ => (allZero_iff ft).mp hz s
    simp [buildTree, this, mergeLoop] at h
  · intro h
    refine mergeLoop_isSome _ _ _ (fun hn => ?_) (le_refl _)
    have := (leafEntries_eq_nil ft allSymbols 0).mp hn
    rw [(allZero_iff ft).mpr fun s => this s (mem_allSymbols s)] at h
    cases h

/-- A parse that succeeds hands on no more bytes than it was given. -/
theorem parse_length {fuel pos pos' : Nat} {str rest : List Byte} {t : Tree}
    (h : parse fuel pos str = .ok (t, pos', rest)) : rest.length < str.length := by
  induction fuel generalizing pos pos' str rest t with
  | zero => simp [parse] at h
  | succ fuel ih =>
    cases str with
    | nil => simp [parse] at h
    | cons tag str =>
      simp only [parse] at h
      split at h
      · cases str with
        | nil => cases h
        | cons s str =>
          cases h
          simp only [List.length_cons]
          omega
      · split at h
        · split at h
          · cases h
          · next l pos1 rest1 h1 =>
            split at h
            · cases h
            · next r pos2 rest2 h2 =>
              cases h
              have := ih h1
              have := ih h2
              simp only [List.length_cons]
              omega
        · cases h

/-- More fuel than bytes left changes nothing: the recursion of the parser never runs out. -/
theorem parse_fuel (fuel fuel' pos : Nat) (str : List Byte) (h : str.length < fuel) (h' : str.length < fuel') :
    parse fuel pos str = parse fuel' pos str := by
  induction fuel generalizing fuel' pos str with
  | zero => omega
  | succ fuel ih =>
    obtain ⟨fuel', rfl⟩ := Nat.exists_eq_add_of_le' (Nat.lt_of_le_of_lt (Nat.zero_le _) h')
    cases str with
    | nil => simp [parse]
    | cons tag str =>
      simp only [List.length_cons] at h h'
      have h1 := ih fuel' (pos + 1) str (by omega) (by omega)
      simp only [parse, h1]
      split
      · rfl
      · split
        · split
          · rfl
          · next l pos1 rest1 hl =>
            have := parse_length hl
            rw [ih fuel' pos1 rest1 (by omega) (by omega)]
        · rfl

end Sys2Proof.Machine
end

