-- ==== Sys2Proof/Laws/Exec.lean ====
section
/-! SUPPORT. Everything a command, a host move and a step can do, each said once; an invariant is then proved from these
without unfolding the step. -/

namespace Sys2Proof.Machine

/-- The rule of each command, without its acceptance. -/
def commandBody : Instr → State → Ending
  | .nop => fun s => .completed s
  | .count => countBody
  | .build => buildBody
  | .codes => codesBody
  | .encode => encodeBody
  | .decode => decodeBody
  | .serialize => serializeBody
  | .deserialize => deserializeBody
  | .clear => fun s => .completed s.clearAll

/-- Every command but CLEAR is its rule under the acceptance of 30_encoding.md R62. -/
theorem exec_eq_accept (i : Instr) (s : State) (h : i ≠ .clear) : exec i s = accept (commandBody i) s := by
  cases i <;> first | rfl | contradiction

/-- CLEAR is accepted always (46_control.md R153). -/
theorem exec_clear (s : State) : exec .clear s = .next ((s.setFlag .done false).clearAll.setFlag .done true) := rfl

/-- With ERR = 0 a command runs its rule from DONE = 0 to its end. -/
theorem exec_of_ok (i : Instr) (s : State) (h : s.err = false) :
    exec i s = .next (commandBody i (s.setFlag .done false)).state := by
  by_cases hi : i = .clear
  · subst hi; rfl
  · rw [exec_eq_accept i s hi, accept_of_ok _ h]

/-- Everything a command other than CLEAR can do. -/
theorem exec_next {i : Instr} {s t : State} (hi : i ≠ .clear) (h : exec i s = .next t) :
    (s.err = true ∧ t = s) ∨ (s.err = false ∧ t = (commandBody i (s.setFlag .done false)).state) := by
  rw [exec_eq_accept i s hi] at h
  exact accept_next h

/-- The rule of DESERIALIZE past its empty-string test. -/
theorem deserializeBody_of_pos {s : State} (h : 0 < s.tsIn.len) :
    deserializeBody s =
      match parseString s.tsInSeq with
      | .error pos => .raised .malformedTree pos s.startDeserialize
      | .ok (t, pos) => .completed ((s.startDeserialize.writeTree (some t)).writeTspos pos) := by
  unfold deserializeBody
  split
  · omega
  · rfl

/-- `State.errorEntry` is error entry as 60_exceptions.md R170 describes it. -/
theorem errorEntered_errorEntry (k : ErrorKind) (info : Nat) (u : State) :
    ErrorEntered k info u (u.errorEntry k info) := by
  unfold ErrorEntered
  simp

/-- Everything a host move other than a write to CMD can do to what the block holds beside its inputs: the reset event, or
nothing. -/
theorem hostMove_next {a : HostAction} {s t : State} (ha : ∀ v, a ≠ .writeReg 0 v) (h : hostMove a s = .next t) :
    t = s.resetEvent ∨
      (t.status = s.status ∧ t.errcode = s.errcode ∧ t.errinfo = s.errinfo ∧ t.symOut = s.symOut ∧
        t.bitOut = s.bitOut ∧ t.tsOut = s.tsOut ∧ t.ct = s.ct ∧ t.tree = s.tree ∧ t.tspos = s.tspos ∧
        t.epoch = s.epoch ∧ t.host = s.host) := by
  cases a with
  | writeReg n v =>
    right
    simp only [hostMove, writeRegister] at h
    split at h
    · exact absurd rfl (ha v)
    all_goals (cases h; simp)
  | reset => cases h; exact .inl rfl
  | _ => cases h; right; simp

/-- What holds of a state and is kept by every command, by a reserved word, by the other host moves and by the host's going
on, is kept by every step. -/
theorem step_keeps {P : State → Prop} (hhost : ∀ s p, P s → P { s with host := p })
    (hexec : ∀ i s t, P s → exec i s = .next t → P t)
    (hill : ∀ w s t, P s → illegalCommand w s = .next t → P t)
    (hmove : ∀ a s t, P s → (∀ v, a ≠ .writeReg 0 v) → hostMove a s = .next t → P t)
    {s t : State} (hs : P s) (ht : step s = .next t) : P t := by
  simp only [step, hostStep] at ht
  split at ht
  · cases ht; exact hs
  · next a rest _ =>
    by_cases ha : ∃ v, a = .writeReg 0 v
    · obtain ⟨v, rfl⟩ := ha
      simp only [hostMove, writeRegister, issue] at ht
      split at ht
      · exact hexec _ _ _ (hhost _ _ hs) ht
      · exact hill _ _ _ (hhost _ _ hs) ht
    · exact hmove _ _ _ (hhost _ _ hs) (fun v hv => ha ⟨v, hv⟩) ht
  · cases ht; exact hhost _ _ hs

/-- The word of a command written to CMD runs the command. -/
theorem hostMove_command (i : Instr) (s : State) : hostMove (command i) s = exec i s := by
  cases i <;> rfl

/-- Host moves in two parts. -/
theorem hostMoves_append (a b : List HostAction) (s : State) :
    hostMoves (a ++ b) s = andThen (hostMoves a s) (hostMoves b) := by
  induction a generalizing s with
  | nil => rfl
  | cons x a ih =>
    simp only [List.cons_append, hostMoves]
    cases hostMove x s with
    | next t => simp [ih]
    | fault r => rfl
    | refused r => rfl

end Sys2Proof.Machine
end

