-- ==== Sys2Proof/Laws/PerInstr.lean ====
section
/-! SUPPORT. The family `CommandWord`: what holds of the word of every command as syntax. -/

namespace Sys2Proof.Laws

/-- The word of a command has RSV = 0 and an operation code of 30_encoding.md R61, both checks of a word hold of it,
and the command is well formed. -/
def CommandWord.Statement (i : Instr) : Prop :=
  cmdRsv (encode i) = 0#4 ∧ (cmdOp (encode i)).toNat ≤ 8 ∧ wordWellFormed (encode i) = true ∧ i.wellFormed = true

theorem CommandWord.nop : CommandWord.Statement .nop := ⟨rfl, by decide, rfl, rfl⟩
theorem CommandWord.count : CommandWord.Statement .count := ⟨rfl, by decide, rfl, rfl⟩
theorem CommandWord.build : CommandWord.Statement .build := ⟨rfl, by decide, rfl, rfl⟩
theorem CommandWord.codes : CommandWord.Statement .codes := ⟨rfl, by decide, rfl, rfl⟩
theorem CommandWord.encode : CommandWord.Statement .encode := ⟨rfl, by decide, rfl, rfl⟩
theorem CommandWord.decode : CommandWord.Statement .decode := ⟨rfl, by decide, rfl, rfl⟩
theorem CommandWord.serialize : CommandWord.Statement .serialize := ⟨rfl, by decide, rfl, rfl⟩
theorem CommandWord.deserialize : CommandWord.Statement .deserialize := ⟨rfl, by decide, rfl, rfl⟩
theorem CommandWord.clear : CommandWord.Statement .clear := ⟨rfl, by decide, rfl, rfl⟩

end Sys2Proof.Laws
end

