-- ==== Sys2Proof/Tests/Slice0.lean ====
section
/-! SUPPORT. The model's own tests. Expected results are the spec's: the encodings of 30_encoding.md R61, the tables of
95_test_vectors.md and the worked examples of the rules, each named where it is used. Then a witness for the hypotheses of
every statement. -/

namespace Sys2Proof.Tests

open Sys2Proof Sys2Proof.Machine

/-! ### Helpers -/

/-- A byte sequence from its codes. -/
def bytes (l : List Nat) : List Byte := l.map (BitVec.ofNat 8)

/-- A bit sequence from its digits. -/
def bits (l : List Nat) : List Bit := l.map (· == 1)

/-- A buffer that the host has loaded with a sequence. -/
def loaded {α : Type} (l : List α) : InBuf α := { cells := l.zipIdx.map fun p => (p.2, p.1), len := l.length }

/-- SYM_IN loaded. -/
def symState (l : List Nat) : State := { State.reset with symIn := loaded (bytes l) }

/-- TS_IN loaded. -/
def tsState (l : List Nat) : State := { State.reset with tsIn := loaded (bytes l) }

/-- A tree in TREE and BIT_IN loaded. -/
def treeState (t : Tree) (l : List Nat) : State := { State.reset with tree := some t, bitIn := loaded (bits l) }

/-- A frequency table from its non-zero entries. -/
def table : List (Nat × Nat) → Table Nat
  | [] => Table.fill 0
  | (s, f) :: rest => Table.put (table rest) (BitVec.ofNat 8 s) f

/-- An entry of a table, looked up in the list it is made from. -/
def entryOf {α : Type} (none' : α) : List (Byte × α) → Byte → α
  | [], _ => none'
  | (s, v) :: rest, d => if d = s then v else entryOf none' rest d

/-- A table made by writes reads as its list says. -/
theorem get_table (l : List (Nat × Nat)) (d : Byte) :
    Table.get (table l) d = entryOf 0 (l.map fun p => (BitVec.ofNat 8 p.1, p.2)) d := by
  induction l with
  | nil => exact Table.get_fill 0 d
  | cons p rest ih => rw [List.map_cons, entryOf, ← ih]; exact Table.get_put ..

/-- A code table from its valid entries. -/
def codeTableOf : List (Nat × List Nat) → Table (Option (List Bit))
  | [] => Table.fill none
  | (s, c) :: rest => Table.put (codeTableOf rest) (BitVec.ofNat 8 s) (some (bits c))

/-- A code table made by writes reads as its list says. -/
theorem get_codeTableOf (l : List (Nat × List Nat)) (d : Byte) :
    Table.get (codeTableOf l) d = entryOf none (l.map fun p => (BitVec.ofNat 8 p.1, some (bits p.2))) d := by
  induction l with
  | nil => exact Table.get_fill none d
  | cons p rest ih => rw [List.map_cons, entryOf, ← ih]; exact Table.get_put ..

/-- FT loaded. -/
def ftState (l : List (Nat × Nat)) : State := { State.reset with ft := table l }

/-- SYM_IN and CT loaded. -/
def ctState (c : List (Nat × List Nat)) (l : List Nat) : State := { symState l with ct := codeTableOf c }

/-- The state after word 0x09 at reset (V-X2): an error is recorded. -/
def errState : State := { State.reset with status := 0x02#8, errcode := 4#8, errinfo := 9 }

/-- The state an outcome leaves. -/
def after (o : Host.Outcome State Fault Refusal) : State :=
  match o with
  | .next t => t
  | _ => State.reset

/-- The tree of `"ILaILcLb"` with its built frequencies (41_build.md R99). -/
def tree3 : Tree := .internal 6 (.leaf 0x61#8 3) (.internal 3 (.leaf 0x63#8 1) (.leaf 0x62#8 2))

/-- The tree of `"ILaLb"`. -/
def tree2 : Tree := .internal 2 (.leaf 0x61#8 1) (.leaf 0x62#8 1)

/-- The tree of `"ILaLa"`. -/
def treeAA : Tree := .internal 0 (.leaf 0x61#8 0) (.leaf 0x61#8 0)

/-- The codes of `tree3`. -/
def codes3 : List (Nat × List Nat) := [(0x61, [0]), (0x63, [1, 0]), (0x62, [1, 1])]

/-! ### The command word -/

/-- WellFormed smoke: the first check of a word refuses RSV = 1 (0x10). -/
theorem test_wordRsvZero_refuses : wordRsvZero 0x10#8 = false ∧ wordWellFormed 0x10#8 = false := by decide

/-- WellFormed smoke: the second check refuses OP = 9 (0x09). -/
theorem test_wordOpDefined_refuses : wordOpDefined 0x09#8 = false ∧ wordWellFormed 0x09#8 = false := by decide

/-- A command has no operand, so every term is well formed (R60). -/
theorem test_wellFormed (i : Instr) : i.wellFormed = true := rfl

/-- R60, R61: 0b0000_0000 is NOP. -/
theorem test_decode_nop : decode 0b00000000#8 = .ok .nop := by decide
/-- R61: 0b0000_0001 is COUNT. -/
theorem test_decode_count : decode 0b00000001#8 = .ok .count := by decide
/-- R61: 0b0000_0010 is BUILD. -/
theorem test_decode_build : decode 0b00000010#8 = .ok .build := by decide
/-- R61: 0b0000_0011 is CODES. -/
theorem test_decode_codes : decode 0b00000011#8 = .ok .codes := by decide
/-- R61: 0b0000_0100 is ENCODE. -/
theorem test_decode_encode : decode 0b00000100#8 = .ok .encode := by decide
/-- R61: 0b0000_0101 is DECODE. -/
theorem test_decode_decode : decode 0b00000101#8 = .ok .decode := by decide
/-- R61: 0b0000_0110 is SERIALIZE. -/
theorem test_decode_serialize : decode 0b00000110#8 = .ok .serialize := by decide
/-- R61: 0b0000_0111 is DESERIALIZE. -/
theorem test_decode_deserialize : decode 0b00000111#8 = .ok .deserialize := by decide
/-- R61: 0b0000_1000 is CLEAR. -/
theorem test_decode_clear : decode 0b00001000#8 = .ok .clear := by decide
/-- R63: RSV is looked at before OP: 0b0001_1001 fails both checks. -/
theorem test_decode_reserved :
    decode 0b00001001#8 = .error .reservedOp ∧ decode 0b00011001#8 = .error .reservedRsv ∧
      decodeBytes [] = .error .noWord ∧ decodeBytes [0x01#8, 0x02#8] = .ok (.count, [0x02#8]) := by
  refine ⟨by decide, by decide, rfl, rfl⟩

/-- The numbering of the opcode table: bit 0 is the least significant bit of the one byte. -/
theorem test_decodeTableWord : decodeTableWord 8 0x08 = some .clear ∧ decodeTableWord 8 0x80 = none := by decide

/-! ### NOP and CLEAR -/

/-- V-X1: NOP at reset gives STATUS 0x01 and nothing else. -/
theorem test_nop : exec .nop State.reset = .next { State.reset with status := 0x01#8 } := by rfl

/-- R151: NOP while ERR = 1 is ignored. -/
theorem test_nop_ignored : exec .nop errState = .next errState := by rfl

/-- V-X7: CLEAR after an error gives STATUS 0x01, ERRCODE 0, ERRINFO 0. -/
theorem test_clear_after_error :
    (after (exec .clear errState)).status = 0x01#8 ∧ (after (exec .clear errState)).errcode = 0#8 ∧
      (after (exec .clear errState)).errinfo = 0 := by decide

/-- V-X11: CLEAR with ERR = 0 puts the tables, the lengths and the tree back. -/
theorem test_clear :
    (after (exec .clear (treeState tree3 [1]))).tree = none ∧ (after (exec .clear (treeState tree3 [1]))).bitIn.len = 0 ∧
      Table.get (after (exec .clear (ftState [(0x61, 3)]))).ft 0x61#8 = 0 := by decide +kernel

/-! ### COUNT -/

/-- V-C4, R84: `"aaabbc"` counts a 3, b 2, c 1, with STATUS 0x01. -/
theorem test_count :
    [0x61#8, 0x62#8, 0x63#8, 0x64#8].map
        (Table.get (after (exec .count (symState [0x61, 0x61, 0x61, 0x62, 0x62, 0x63]))).ft) = [3, 2, 1, 0] ∧
      (after (exec .count (symState [0x61, 0x61, 0x61, 0x62, 0x62, 0x63]))).status = 0x01#8 := by decide +kernel

/-- V-C1: empty input gives STATUS 0x05, and an old table is replaced (V-C10). -/
theorem test_count_empty :
    Table.get (after (exec .count (ftState [(0x61, 3)]))).ft 0x61#8 = 0 ∧
      (after (exec .count (ftState [(0x61, 3)]))).status = 0x05#8 := by decide +kernel

/-! ### BUILD -/

/-- V-B8: five equal counts; the tie-breaks between leaves and between a leaf and an older internal node. -/
theorem test_build_ties :
    (after (exec .build (ftState [(0x61, 1), (0x62, 1), (0x63, 1), (0x64, 1), (0x65, 1)]))).tree =
      some (.internal 5 (.internal 2 (.leaf 0x63#8 1) (.leaf 0x64#8 1))
        (.internal 3 (.leaf 0x65#8 1) (.internal 2 (.leaf 0x61#8 1) (.leaf 0x62#8 1)))) := by decide +kernel

/-- V-X8, V-B13: BUILD on the empty table leaves ERR and EMPTY as STATUS 0x06, ERRCODE 3, ERRINFO 0. -/
theorem test_build_empty :
    (after (exec .build { State.reset with status := 0x05#8 })).status = 0x06#8 ∧
      (after (exec .build { State.reset with status := 0x05#8 })).errcode = 3#8 := by decide +kernel

/-! ### CODES -/

/-- V-K4: the codes of the three-symbol tree. -/
theorem test_codes :
    [0x61#8, 0x62#8, 0x63#8, 0x64#8].map (Table.get (after (exec .codes (treeState tree3 []))).ct) =
      [some (bits [0]), some (bits [1, 1]), some (bits [1, 0]), none] := by decide +kernel

/-- V-K5: a repeated symbol is ContractViolation with ERRINFO 97, CT invalid, TREE unchanged. -/
theorem test_codes_repeated :
    (after (exec .codes (treeState treeAA []))).errinfo = 97 ∧ (after (exec .codes (treeState treeAA []))).errcode = 3#8 ∧
      Table.get (after (exec .codes (treeState treeAA []))).ct 0x61#8 = none ∧
      (after (exec .codes (treeState treeAA []))).tree = some treeAA := by decide +kernel

/-! ### ENCODE -/

/-- V-E4: `"abacab"` encodes to `"011010011"`. -/
theorem test_encode :
    (after (exec .encode (ctState codes3 [0x61, 0x62, 0x61, 0x63, 0x61, 0x62]))).bitOut = bits [0, 1, 1, 0, 1, 0, 0, 1, 1] := by
  decide +kernel

/-- V-E10: `"abz"` has no code at index 2: ERRCODE 3, ERRINFO 2, no output, and an earlier output is gone (V-X10). -/
theorem test_encode_missing :
    (after (exec .encode { ctState [(0x61, [0]), (0x62, [1])] [0x61, 0x62, 0x7A] with tsOut := [0x4C#8] })).errinfo = 2 ∧
      (after (exec .encode { ctState [(0x61, [0]), (0x62, [1])] [0x61, 0x62, 0x7A] with tsOut := [0x4C#8] })).tsOut = [] := by
  decide +kernel

/-! ### DECODE -/

/-- V-D5: `"000111110"` decodes to `"aaabbc"`. -/
theorem test_decode_run :
    (after (exec .decode (treeState tree3 [0, 0, 0, 1, 1, 1, 1, 1, 0]))).symOut =
      bytes [0x61, 0x61, 0x61, 0x62, 0x62, 0x63] := by decide +kernel

/-- V-D9, E3: `"111"` is MalformedEncoding with ERRINFO 3, and the `b` is not delivered. -/
theorem test_decode_malformed :
    (after (exec .decode (treeState tree3 [1, 1, 1]))).errcode = 2#8 ∧
      (after (exec .decode (treeState tree3 [1, 1, 1]))).errinfo = 3 ∧
      (after (exec .decode (treeState tree3 [1, 1, 1]))).symOut = [] := by decide +kernel

/-! ### SERIALIZE and DESERIALIZE -/

/-- V-S3: the three-symbol tree is 49 4C 61 49 4C 63 4C 62. -/
theorem test_serialize :
    (after (exec .serialize (treeState tree3 []))).tsOut = bytes [0x49, 0x4C, 0x61, 0x49, 0x4C, 0x63, 0x4C, 0x62] := by
  decide +kernel

/-- V-S1: the absent tree is the empty string, without error. -/
theorem test_serialize_null :
    exec .serialize { State.reset with tsOut := [0x4C#8] } = .next { State.reset with status := 0x01#8 } := by rfl

/-- R142, `"LaLb"`: the tree is the leaf, TSPOS is 2, and the bytes after it are no error. -/
theorem test_deserialize :
    (after (exec .deserialize (tsState [0x4C, 0x61, 0x4C, 0x62]))).tree = some (.leaf 0x61#8 0) ∧
      (after (exec .deserialize (tsState [0x4C, 0x61, 0x4C, 0x62]))).tspos = 2 ∧
      (after (exec .deserialize (tsState [0x4C, 0x61, 0x4C, 0x62]))).status = 0x01#8 := by decide +kernel

/-- R142, `"ILaX"`: MalformedTree with ERRINFO 3, TREE NULL, TSPOS 0 (P6). -/
theorem test_deserialize_malformed :
    (after (exec .deserialize (tsState [0x49, 0x4C, 0x61, 0x58]))).errcode = 1#8 ∧
      (after (exec .deserialize (tsState [0x49, 0x4C, 0x61, 0x58]))).errinfo = 3 ∧
      (after (exec .deserialize (tsState [0x49, 0x4C, 0x61, 0x58]))).tree = none := by decide +kernel

/-! ### The host and the step -/

/-- V-X4: writing 0xFF at reset gives STATUS 0x02, ERRCODE 4, ERRINFO 255. -/
theorem test_step_reserved :
    step (State.reset.withFetchWord 8 0xFF) = .next { State.reset with status := 0x02#8, errcode := 4#8, errinfo := 255 } := by
  rfl

/-- V-X6: the first error wins: writing 0x0A after it changes nothing. -/
theorem test_step_sticky : step (errState.withFetchWord 8 0x0A) = .next errState := by rfl

/-- The word placed by `withFetchWord` runs at the very next step (V-X1), and the host's list is back as it was. -/
theorem test_withFetchWord : step (State.reset.withFetchWord 8 0x00) = .next { State.reset with status := 0x01#8 } := by rfl

/-- R66: the conditional of P4 takes its first list when EMPTY is 1. -/
theorem test_step_branch :
    step { State.reset with status := 0x05#8, host := .branch .empty (.act (.writeReg 0 8) .ended) .ended } =
      .next { State.reset with status := 0x05#8, host := .act (.writeReg 0 8) .ended } := by rfl

/-- 20_memory.md R45, R195: elements, then the length, then the sequence is there. -/
theorem test_load :
    (after (hostMoves (loadSymIn (bytes [0x61, 0x62])) State.reset)).symInSeq = bytes [0x61, 0x62] := by decide +kernel

/-! ### Witnesses: the hypotheses of each statement hold together of a concrete state -/

theorem witness_ReservedWordRaisesIllegalCommand :
    8 < (0x09#8).toNat ∧ 8 < (0xFF#8).toNat ∧ State.reset.err = false ∧ ∃ e, decode 0x09#8 = .error e :=
  ⟨by decide, by decide, by decide, .reservedOp, by decide⟩

theorem witness_CommandsAreAcceptedInOrder :
    (errState.err = true ∧ 0x07#8 ≠ (0x08#8 : Byte)) ∧ (State.reset.err = false ∧ decode 0x00#8 = .ok .nop) ∧
      decode 0x08#8 = .ok .clear ∧ decode 0x09#8 = .error .reservedOp := by
  refine ⟨⟨by decide, by decide⟩, ⟨by decide, by decide⟩, by decide, by decide⟩

theorem witness_StickyErrorIgnoresEveryOtherWord :
    errState.err = true ∧ 0x09#8 ≠ (0x08#8 : Byte) ∧ Instr.deserialize ≠ Instr.clear := by decide

theorem witness_CommandsWriteOnlyWhatTheirRowMarks : ∃ t, exec .codes (treeState tree3 []) = .next t := ⟨_, rfl⟩

theorem witness_ResultsDependOnTheOperandsAlone :
    (treeState tree3 [1]).err = false ∧ (treeState tree3 [0]).err = false ∧
      SameOperands .serialize (treeState tree3 [1]) (treeState tree3 [0]) := ⟨by decide, by decide, rfl⟩

theorem witness_NopOnlySetsDone : State.reset.err = false ∧ errState.err = true := by decide

theorem witness_ClearRestoresTheResetState : StatusLegal errState ∧ StatusLegal State.reset := by
  unfold StatusLegal; decide

theorem witness_OnlyClearAndResetEndAnError :
    (∃ t, hostMove .reset errState = .next t ∧ t.err = false) ∧
      (∃ t, hostMove (.writeReg 0 0x08) errState = .next t ∧ t.err = false) ∧ errState.err = true ∧ Instr.nop ≠ .clear :=
  ⟨⟨_, rfl, by decide⟩, ⟨_, rfl, by decide⟩, by decide, by decide⟩

theorem witness_CountGivesTheNumberOfOccurrences :
    (symState [0x61, 0x62]).err = false ∧ (symState []).err = false ∧ (symState []).symIn.len = 0 := by decide

theorem witness_CountForgetsTheOrderOfTheInput :
    (symState [0x61, 0x62]).err = false ∧ (symState [0x62, 0x61]).err = false ∧
      (symState [0x61, 0x62]).symInSeq.Perm (symState [0x62, 0x61]).symInSeq :=
  ⟨by decide, by decide, List.Perm.swap _ _ _⟩

theorem witness_BuildMakesATreeOfTheTable :
    (ftState [(0x00, 1)]).err = false ∧ keys (ftState [(0x00, 1)]).ft ≠ [] ∧
      keys (ftState [(0x61, 3), (0xFF, 2)]).ft ≠ [] := by
  simp only [ftState, keys, get_table]; decide +kernel

theorem witness_BuildOnAnEmptyTableIsAContractViolation :
    State.reset.err = false ∧ ∀ c, Table.get State.reset.ft c = 0 :=
  ⟨by decide, fun c => Table.get_fill 0 c⟩

theorem witness_BuildOfOneSymbolIsALeaf :
    (ftState [(0xFF, 4)]).err = false ∧ Table.get (ftState [(0xFF, 4)]).ft 0xFF#8 > 0 ∧
      ∀ d, d ≠ 0xFF#8 → Table.get (ftState [(0xFF, 4)]).ft d = 0 := by
  simp only [ftState, get_table]; decide +kernel

theorem witness_BuildOfTwoSymbolsOrdersThem :
    ((0x61#8).toNat < (0x62#8).toNat) ∧
    ((ftState [(0x61, 5), (0x62, 2)]).err = false ∧ Table.get (ftState [(0x61, 5), (0x62, 2)]).ft 0x61#8 > 0 ∧
      Table.get (ftState [(0x61, 5), (0x62, 2)]).ft 0x62#8 > 0 ∧
      ∀ d, d ≠ 0x61#8 → d ≠ 0x62#8 → Table.get (ftState [(0x61, 5), (0x62, 2)]).ft d = 0) ∧
    ((ftState [(0x61, 1), (0x62, 1)]).err = false ∧ Table.get (ftState [(0x61, 1), (0x62, 1)]).ft 0x61#8 > 0 ∧
      Table.get (ftState [(0x61, 1), (0x62, 1)]).ft 0x62#8 > 0 ∧
      ∀ d, d ≠ 0x61#8 → d ≠ 0x62#8 → Table.get (ftState [(0x61, 1), (0x62, 1)]).ft d = 0) := by
  simp only [ftState, get_table]; decide +kernel

theorem witness_BuildOfTheWorkedExample :
    (ftState [(0x63, 1), (0x62, 2), (0x61, 3)]).err = false ∧
      (ftState [(0x63, 1), (0x62, 2), (0x61, 3)]).ft =
        Table.put (Table.put (Table.put (Table.fill 0) 0x61#8 3) 0x62#8 2) 0x63#8 1 := ⟨by decide, rfl⟩

/-- Two entries of equal frequency (41_build.md R93). -/
def queue2 : List QueueEntry := [{ seq := 1, node := .leaf 0x62#8 1 }, { seq := 0, node := .leaf 0x61#8 1 }]

theorem witness_QueueGivesTheSmallestKeyFirst : (queue2.map (·.seq)).Nodup ∧ queue2 ≠ [] := by decide

theorem witness_BuildIsOptimal :
    (ftState [(0x61, 5), (0x62, 2)]).err = false ∧ 2 ≤ (keys (ftState [(0x61, 5), (0x62, 2)]).ft).length ∧
      ∀ a ∈ keys (ftState [(0x61, 5), (0x62, 2)]).ft, ∀ b ∈ keys (ftState [(0x61, 5), (0x62, 2)]).ft, a ≠ b →
        ¬ (fun c : Byte => if c = 0x61#8 then [false] else [true]) a <+:
          (fun c : Byte => if c = 0x61#8 then [false] else [true]) b := by
  simp only [ftState, keys, get_table]; decide +kernel

theorem witness_CodesAfterBuildSucceeds :
    (ftState [(0x61, 3)]).err = false ∧ keys (ftState [(0x61, 3)]).ft ≠ [] := by
  simp only [ftState, keys, get_table]; decide +kernel

theorem witness_CodesRecordsEveryPath :
    (treeState tree3 []).err = false ∧ (treeState tree3 []).tree = some tree3 ∧ tree3.isLeaf = false ∧
      tree3.leaves.Nodup := by decide

theorem witness_CodesOfALoneLeaf :
    (treeState (.leaf 0x00#8 0) []).err = false ∧ (treeState (.leaf 0x00#8 0) []).tree = some (.leaf 0x00#8 0) := by decide

theorem witness_CodesWithoutATreeIsAContractViolation : State.reset.err = false ∧ State.reset.tree = none := by decide

theorem witness_CodesOfARepeatedSymbolIsAContractViolation :
    (treeState treeAA []).err = false ∧ (treeState treeAA []).tree = some treeAA ∧
      treeAA.leaves = [0x61#8] ++ 0x61#8 :: [] ∧ ([0x61#8] : List Byte).Nodup ∧ 0x61#8 ∈ ([0x61#8] : List Byte) := by decide

theorem witness_CodesArePrefixFree :
    (treeState tree3 []).err = false ∧ (treeState tree3 []).tree = some tree3 ∧
      ∃ t, exec .codes (treeState tree3 []) = .next t ∧ Completed t := by
  refine ⟨by decide, by decide, _, rfl, ?_⟩
  unfold Completed; decide +kernel

theorem witness_CodesMeetTheKraftEquality :
    (treeState tree2 []).err = false ∧ (treeState tree2 []).tree = some tree2 ∧ tree2.isLeaf = false ∧
      ∃ t, exec .codes (treeState tree2 []) = .next t ∧ Completed t := by
  refine ⟨by decide, by decide, by decide, _, rfl, ?_⟩
  unfold Completed; decide +kernel

/-- A state in which CODES has run on the lone leaf `a`. -/
def loneCodes (l : List Nat) : State := { ctState [(0x61, [0])] l with tree := some (.leaf 0x61#8 4) }

theorem codesOfTree_loneCodes (l : List Nat) : CodesOfTree (loneCodes l) := .inr ⟨_, rfl, rfl⟩

theorem validSymbols_loneCodes (l : List Nat) : validSymbols (loneCodes l).ct = [0x61#8] := by
  simp only [loneCodes, ctState, validSymbols, get_codeTableOf]; decide +kernel

/-- A state in which CODES has run on the three-symbol tree. -/
def threeCodes : State := { ctState codes3.reverse [] with tree := some tree3 }

theorem witness_CodeTableLaws :
    (CodesOfTree (loneCodes []) ∧ validSymbols (loneCodes []).ct = [0x61#8]) ∧
      (CodesOfTree threeCodes ∧ 2 ≤ (validSymbols threeCodes.ct).length) := by
  refine ⟨⟨codesOfTree_loneCodes [], validSymbols_loneCodes []⟩, ⟨.inr ⟨tree3, rfl, ?_⟩, ?_⟩⟩
  · simp [codeTable, tree3, walk, Table.get_put]; rfl
  · simp only [threeCodes, ctState, validSymbols, get_codeTableOf]; decide +kernel

theorem witness_EncodeConcatenatesTheCodes :
    (ctState codes3 [0x61, 0x63]).err = false ∧
      ∀ i, i < (ctState codes3 [0x61, 0x63]).symIn.len →
        (Table.get (ctState codes3 [0x61, 0x63]).ct ((ctState codes3 [0x61, 0x63]).symInAt i)).isSome := by
  refine ⟨by decide, fun i hi => ?_⟩
  match i, hi with
  | 0, _ => decide +kernel
  | 1, _ => decide +kernel

theorem witness_EncodeOfASymbolWithoutACodeIsAContractViolation :
    ((ctState codes3 [0x61, 0x7A]).err = false ∧ 1 < (ctState codes3 [0x61, 0x7A]).symIn.len ∧
      Table.get (ctState codes3 [0x61, 0x7A]).ct ((ctState codes3 [0x61, 0x7A]).symInAt 1) = none ∧
      ∀ j, j < 1 → (Table.get (ctState codes3 [0x61, 0x7A]).ct ((ctState codes3 [0x61, 0x7A]).symInAt j)).isSome) ∧
    (0 < (ctState [] [0x61]).symIn.len ∧ Table.get (ctState [] [0x61]).ct ((ctState [] [0x61]).symInAt 0) = none) := by
  decide +kernel

theorem witness_EncodeOfAnEmptyInput : State.reset.err = false ∧ State.reset.symIn.len = 0 := by decide

theorem witness_EncodeOfALoneSymbolIsAllZeros :
    (loneCodes [0x61, 0x61]).err = false ∧ CodesOfTree (loneCodes [0x61, 0x61]) ∧
      validSymbols (loneCodes [0x61, 0x61]).ct = [0x61#8] ∧
      ∀ i, i < (loneCodes [0x61, 0x61]).symIn.len → (loneCodes [0x61, 0x61]).symInAt i = 0x61#8 := by
  refine ⟨by decide, codesOfTree_loneCodes _, validSymbols_loneCodes _, fun i hi => ?_⟩
  match i, hi with
  | 0, _ => decide +kernel
  | 1, _ => decide +kernel

theorem witness_StaleCodeTableIsAContractViolation :
    ({ symState [0x61] with ft := table [(0x61, 1)] }.err = false ∧ 0 < (symState [0x61]).symIn.len ∧
      ∃ t, exec .build { symState [0x61] with ft := table [(0x61, 1)] } = .next t ∧ Completed t) ∧
    ∃ t, exec .deserialize { symState [0x61] with tsIn := loaded (bytes [0x4C, 0x61]) } = .next t ∧ Completed t := by
  refine ⟨⟨by decide, by decide, _, rfl, ?_⟩, _, rfl, ?_⟩ <;> (unfold Completed; decide +kernel)

theorem witness_DecodeWithoutATreeIsAContractViolation : State.reset.err = false ∧ State.reset.tree = none := by decide

theorem witness_DecodeSplitsTheBitsIntoPaths :
    (treeState tree3 [1, 0, 0]).err = false ∧ (treeState tree3 [1, 0, 0]).tree = some tree3 ∧ tree3.isLeaf = false ∧
      [bits [1, 0], bits [0]].map tree3.symAt = (bytes [0x63, 0x61]).map some ∧
      (treeState tree3 [1, 0, 0]).bitInSeq = [bits [1, 0], bits [0]].flatten := by decide +kernel

theorem witness_DecodeInsideACodeIsAMalformedEncoding :
    (treeState tree3 [1]).err = false ∧ (treeState tree3 [1]).tree = some tree3 ∧ tree3.isLeaf = false ∧
      ¬ ∃ paths : List (List Bit), (∀ p ∈ paths, (tree3.symAt p).isSome) ∧ (treeState tree3 [1]).bitInSeq = paths.flatten := by
  refine ⟨by decide, by decide, by decide, ?_⟩
  rintro ⟨paths, hp, hb⟩
  have hb : [true] = paths.flatten := hb
  cases paths with
  | nil => cases hb
  | cons p ps =>
    have hs := hp p (List.mem_cons_self ..)
    match p, hs with
    | [], hs => cases hs
    | [b], hs =>
      simp only [List.flatten_cons, List.cons_append, List.nil_append, List.cons.injEq] at hb
      obtain ⟨rfl, -⟩ := hb
      exact absurd hs (by decide)
    | b :: c :: p', _ => simp at hb

theorem witness_DecodeAgainstALoneLeaf :
    ((treeState (.leaf 0x61#8 0) [0, 0]).err = false ∧
      (treeState (.leaf 0x61#8 0) [0, 0]).tree = some (.leaf 0x61#8 0) ∧
      ∀ i, i < (treeState (.leaf 0x61#8 0) [0, 0]).bitIn.len → (treeState (.leaf 0x61#8 0) [0, 0]).bitInAt i = false) ∧
    (1 < (treeState (.leaf 0x61#8 0) [0, 1]).bitIn.len ∧ (treeState (.leaf 0x61#8 0) [0, 1]).bitInAt 1 = true ∧
      ∀ j, j < 1 → (treeState (.leaf 0x61#8 0) [0, 1]).bitInAt j = false) ∧
    (0 < (treeState (.leaf 0x61#8 0) [1]).bitIn.len ∧ (treeState (.leaf 0x61#8 0) [1]).bitInAt 0 = true) := by
  refine ⟨⟨by decide, by decide, fun i hi => ?_⟩, by decide +kernel, by decide +kernel⟩
  match i, hi with
  | 0, _ => decide +kernel
  | 1, _ => decide +kernel

theorem witness_DecodeOfAnEmptyPayload :
    (treeState tree3 []).err = false ∧ (treeState tree3 []).tree = some tree3 ∧ (treeState tree3 []).bitIn.len = 0 := by decide

theorem witness_SerializeEmitsThePreorderString : State.reset.err = false ∧ (treeState tree3 []).err = false := by decide

theorem witness_TreeStringsAreSelfTerminating :
    (treeState tree3 []).err = false ∧ (treeState tree3 []).tree = some tree3 ∧
      serialize (some tree3) <+: serialize (some tree3.unweighted) := ⟨by decide, by decide, [], rfl⟩

theorem witness_DeserializeOfTheEmptyString : State.reset.err = false ∧ State.reset.tsIn.len = 0 := by decide

theorem witness_DeserializeReadsBackATree :
    ((tsState [0x4C, 0x61, 0x4C, 0x62]).err = false ∧
      (tsState [0x4C, 0x61, 0x4C, 0x62]).tsInSeq = serialize (some (.leaf 0x61#8 4)) ++ bytes [0x4C, 0x62]) ∧
    (tsState [0x4C, 0x61]).tsInSeq = serialize (some (.leaf 0x61#8 4)) ++ [] := by decide +kernel

theorem witness_DeserializeConsumesTheStringOfItsTree :
    (tsState [0x4C, 0x61]).err = false ∧ 0 < (tsState [0x4C, 0x61]).tsIn.len ∧
      ∃ t, exec .deserialize (tsState [0x4C, 0x61]) = .next t ∧ Completed t := by
  refine ⟨by decide, by decide, _, rfl, ?_⟩
  unfold Completed; decide +kernel

/-- After `"ILa"` one node, the right child, is still to come. -/
theorem tagPosition_ILa : TagPosition 1 (bytes [0x49, 0x4C, 0x61]) := .leaf 0x61#8 (.internal .start)

theorem witness_DeserializeOfAStringThatEndsEarlyIsMalformed :
    ((tsState [0x49, 0x4C, 0x61]).err = false ∧ (tsState [0x49, 0x4C, 0x61]).tsInSeq ≠ [] ∧
      TagPosition (0 + 1) (tsState [0x49, 0x4C, 0x61]).tsInSeq) ∧
    ((tsState [0x4C]).tsInSeq ≠ [] ∧ ∃ read, TagPosition (0 + 1) read ∧ (tsState [0x4C]).tsInSeq = read ++ [tagL]) :=
  ⟨⟨by decide, by decide +kernel, tagPosition_ILa⟩, by decide +kernel, [], .start, rfl⟩

theorem witness_DeserializeOfAnUnrecognizedTagIsMalformed :
    ((tsState [0x49, 0x4C, 0x61, 0x58]).err = false ∧ TagPosition (0 + 1) (bytes [0x49, 0x4C, 0x61]) ∧
      (tsState [0x49, 0x4C, 0x61, 0x58]).tsInSeq = bytes [0x49, 0x4C, 0x61] ++ 0x58#8 :: [] ∧
      0x58#8 ≠ (0x4C#8 : Byte) ∧ 0x58#8 ≠ (0x49#8 : Byte)) ∧
    (TagPosition (0 + 1) [] ∧ (tsState [0x6C, 0x61]).tsInSeq = [] ++ 0x6C#8 :: [0x61#8]) :=
  ⟨⟨by decide, tagPosition_ILa, rfl, by decide, by decide⟩, .start, rfl⟩

theorem witness_RegisterFileReadsAndWrites : 10 < 11 ∧ (1 ≠ 0 ∧ 1 ≠ 5 ∧ 1 ≠ 6 ∧ 1 ≠ 7) := by decide

theorem witness_TablesReadAsTheyStand :
    Table.get (ctState codes3 []).ct 0x7A#8 = none ∧ Table.get (ctState codes3 []).ct 0x61#8 = some (bits [0]) := by
  decide +kernel

theorem witness_ReadsHaveNoSideEffect :
    (∃ t, hostMove (.read (.symIn 0)) (symState [0x61]) = .next t) ∧ 0 < (symState [0x61]).symIn.len :=
  ⟨⟨_, rfl⟩, by decide⟩

theorem witness_StepRunsTheDecodedCommand :
    (State.reset.withFetchWord 8 0x01).host = .act (.writeReg 0 1) .ended ∧ decode (BitVec.ofNat 8 1) = .ok .count :=
  ⟨rfl, by decide⟩

theorem witness_StepFollowsTheHost :
    State.reset.host = .ended ∧ (State.reset.withFetchWord 8 0x01).host = .act (.writeReg 0 1) .ended ∧
      { State.reset with host := .branch .err .ended .ended }.host = .branch .err .ended .ended := ⟨rfl, rfl, rfl⟩

/-- A state with an error recorded and CLEAR as the host's next move. -/
def errThenClear : State := errState.withFetchWord 8 0x08

theorem witness_StepKeepsStatusLegal : StatusLegal errThenClear ∧ ∃ t, step errThenClear = .next t :=
  ⟨by unfold StatusLegal; decide, _, rfl⟩

theorem witness_StepKeepsErrorRecordLegal : ErrorRecordLegal errThenClear ∧ ∃ t, step errThenClear = .next t :=
  ⟨⟨fun h => absurd h (by decide), fun _ => ⟨⟨.illegalCommand, rfl⟩, rfl, rfl, rfl⟩⟩, _, rfl⟩

theorem witness_StepKeepsCodesOfTree :
    CodesOfTree ((loneCodes [0x61]).withFetchWord 8 0x02) ∧ ∃ t, step ((loneCodes [0x61]).withFetchWord 8 0x02) = .next t :=
  ⟨codesOfTree_loneCodes [0x61], _, rfl⟩

theorem witness_StepKeepsStorageCanonical :
    StorageCanonical { symState [0x61, 0x62] with host := .act (.writeSymIn 1 0x63#8) .ended } ∧
      ∃ t, step { symState [0x61, 0x62] with host := .act (.writeSymIn 1 0x63#8) .ended } = .next t :=
  ⟨⟨by decide, by decide, by decide⟩, _, rfl⟩

theorem witness_DecompressInvertsCompress :
    State.reset.err = false ∧ (treeState tree3 [1]).err = false ∧ bytes [0x61] ≠ [] ∧ bytes [] = [] := by decide

theorem witness_DecompressOfBitsWithoutATree : State.reset.err = false ∧ bits [0] ≠ [] := by decide

end Sys2Proof.Tests
end

section
/-! Proofs about the state (10_state.md): how the rule of a command ends, the frame of every command, what a command's
results depend on, and the invariants that every step keeps. -/

namespace Sys2Proof.Machine

/-! ### How the rule of a command ends -/

/-- The state that the rule of a command has reached when it ends, before DONE or the error record is written. -/
def Ending.reached : Ending → State
  | .completed u => u
  | .raised _ _ u => u

@[simp] theorem Ending.reached_completed (u : State) : (Ending.completed u).reached = u := rfl

@[simp] theorem Ending.reached_raised (k : ErrorKind) (n : Nat) (u : State) : (Ending.raised k n u).reached = u := rfl

/-- A rule that reaches ERR = 0 ends with exactly one of DONE and ERR (10_state.md R21). -/
theorem Ending.state_done {e : Ending} (h : e.reached.err = false) : e.state.done = !e.state.err := by
  cases e with
  | completed u => simpa using h
  | raised k n u => simp

/-! The state each rule reaches, whether it raises or not. -/

theorem buildBody_reached (s : State) : (buildBody s).reached = s.invalidateCt.writeTree (buildTree s.ft) := by
  unfold buildBody
  cases h : allZero s.ft with
  | true =>
    have hnone : buildTree s.ft = none := by
      rw [← Option.not_isSome_iff_eq_none, buildTree_isSome, h]
      decide
    rw [hnone]
    rfl
  | false => rfl

theorem codesBody_reached (s : State) :
    ∃ ct, (codesBody s).reached = s.writeCt ct ∧ (ct = noCodes ∨ ∃ t, s.tree = some t ∧ codeTable t = .ok ct) := by
  unfold codesBody
  cases s.tree with
  | none => exact ⟨noCodes, rfl, .inl rfl⟩
  | some t =>
    dsimp only
    cases hct : codeTable t with
    | error sym => exact ⟨noCodes, rfl, .inl rfl⟩
    | ok ct => exact ⟨ct, rfl, .inr ⟨t, rfl, hct⟩⟩

theorem encodeBody_reached (s : State) : ∃ out, (encodeBody s).reached = s.writeBitOut out := by
  unfold encodeBody
  cases encodeSeq s.ct 0 s.symInSeq with
  | error i => exact ⟨s.bitOut, rfl⟩
  | ok out => exact ⟨out, rfl⟩

theorem decodeBody_reached (s : State) : ∃ out, (decodeBody s).reached = s.writeSymOut out := by
  unfold decodeBody
  cases s.tree with
  | none => exact ⟨s.symOut, rfl⟩
  | some t =>
    dsimp only
    cases decodeSeq t s.bitInSeq with
    | error i => exact ⟨s.symOut, rfl⟩
    | ok out => exact ⟨out, rfl⟩

theorem deserializeBody_reached (s : State) :
    ∃ T n, (deserializeBody s).reached = (s.startDeserialize.writeTree T).writeTspos n := by
  unfold deserializeBody
  cases s.tsIn.len with
  | zero => exact ⟨none, 0, rfl⟩
  | succ n =>
    dsimp only
    cases parseString s.tsInSeq with
    | error pos => exact ⟨none, 0, rfl⟩
    | ok p => exact ⟨some p.1, p.2, rfl⟩

/-- The rule of every command writes only what the command's row of 10_state.md R31 marks, and no rule writes ERR but
CLEAR's, which sets it to 0. -/
theorem commandBody_reached (i : Instr) (s : State) :
    LeavesAlone i s (commandBody i s).reached ∧
      (commandBody i s).reached.err = if i = .clear then false else s.err := by
  cases i with
  | nop => simp [LeavesAlone, commandBody]
  | count => simp [LeavesAlone, commandBody, countBody, State.symInAt, State.bitInAt, State.tsInAt]
  | build => simp [LeavesAlone, commandBody, buildBody_reached, State.symInAt, State.bitInAt, State.tsInAt]
  | codes =>
    obtain ⟨ct, hu, -⟩ := codesBody_reached s
    simp [LeavesAlone, commandBody, hu, State.symInAt, State.bitInAt, State.tsInAt]
  | encode =>
    obtain ⟨out, hu⟩ := encodeBody_reached s
    simp [LeavesAlone, commandBody, hu, State.symInAt, State.bitInAt, State.tsInAt]
  | decode =>
    obtain ⟨out, hu⟩ := decodeBody_reached s
    simp [LeavesAlone, commandBody, hu, State.symInAt, State.bitInAt, State.tsInAt]
  | serialize => simp [LeavesAlone, commandBody, serializeBody, State.symInAt, State.bitInAt, State.tsInAt]
  | deserialize =>
    obtain ⟨T, n, hu⟩ := deserializeBody_reached s
    simp [LeavesAlone, commandBody, hu, State.symInAt, State.bitInAt, State.tsInAt]
  | clear => simp [LeavesAlone, commandBody]

theorem leavesAlone_reached (i : Instr) (s : State) : LeavesAlone i s (commandBody i s).reached :=
  (commandBody_reached i s).1

theorem commandBody_reached_err (i : Instr) (s : State) :
    (commandBody i s).reached.err = if i = .clear then false else s.err := (commandBody_reached i s).2

/-- Everything a command can do: it is ignored, or it runs its rule to the end, and the rule reaches ERR = 0. -/
theorem exec_ends {i : Instr} {s t : State} (h : exec i s = .next t) :
    t = s ∨ ∃ e, e = commandBody i (s.setFlag .done false) ∧ e.reached.err = false ∧ t = e.state := by
  by_cases hi : i = .clear
  · subst hi
    cases h
    exact .inr ⟨_, rfl, by simp [commandBody_reached_err], rfl⟩
  · rcases exec_next hi h with ⟨-, rfl⟩ | ⟨hs, rfl⟩
    · exact .inl rfl
    · exact .inr ⟨_, rfl, by simp [commandBody_reached_err, hs], rfl⟩

/-! ### The frame of a command -/

theorem LeavesAlone.refl (i : Instr) (s : State) : LeavesAlone i s s :=
  ⟨fun _ _ => rfl, fun _ _ _ => rfl, fun _ _ _ _ => rfl, fun _ => ⟨rfl, rfl, rfl, rfl, fun _ => ⟨rfl, rfl, rfl⟩⟩,
    fun _ _ => rfl, fun _ _ _ => rfl, fun _ _ _ => rfl, fun _ _ _ => rfl, fun _ _ _ => rfl, fun _ _ => ⟨rfl, rfl⟩,
    rfl, rfl, rfl⟩

/-- Acceptance and the end of a command stay inside its frame: they write DONE alone, or enter the error. -/
theorem leavesAlone_state {i : Instr} {s : State} {e : Ending} (h : LeavesAlone i (s.setFlag .done false) e.reached)
    (he : e.reached.err = false) : LeavesAlone i s e.state := by
  obtain ⟨hft, htree, hct, hin, htspos, hempty, hsym, hbit, hts, hrec, hres, hhost, hseen⟩ := h
  have hempty' : i ≠ .count → i ≠ .deserialize → i ≠ .clear → e.state.empty = s.empty := by
    cases e <;> simpa using hempty
  have hres' : e.state.status.extractLsb' 3 5 = s.status.extractLsb' 3 5 := by
    cases e <;> simpa using hres
  cases e with
  | completed u =>
    exact ⟨hft, htree, hct, hin, htspos, hempty', fun _ => hsym he, fun _ => hbit he, fun _ => hts he, fun _ => hrec he,
      hres', hhost, hseen⟩
  | raised k n u =>
    have hno : (u.errorEntry k n).err ≠ false := by simp
    exact ⟨hft, htree, hct, hin, htspos, hempty', fun h => absurd h hno, fun h => absurd h hno, fun h => absurd h hno,
      fun h => absurd h hno, hres', hhost, hseen⟩

/-- Settles O7: a command that is ignored changes nothing, and otherwise its rule and its end both stay in the frame. -/
theorem commandsWriteOnlyWhatTheirRowMarks : Obligations.CommandsWriteOnlyWhatTheirRowMarks := by
  intro i s t h
  rcases exec_ends h with rfl | ⟨e, he, herr, rfl⟩
  · exact .refl i t
  · exact leavesAlone_state (he ▸ leavesAlone_reached i _) herr

theorem LeavesAlone.reserved {i : Instr} {s t : State} (h : LeavesAlone i s t) :
    t.status.extractLsb' 3 5 = s.status.extractLsb' 3 5 := by
  obtain ⟨-, -, -, -, -, -, -, -, -, -, hres, -, -⟩ := h
  exact hres

theorem LeavesAlone.errorRecord {i : Instr} {s t : State} (h : LeavesAlone i s t) (ht : t.err = false)
    (hi : i ≠ .clear) : t.errcode = s.errcode ∧ t.errinfo = s.errinfo := by
  obtain ⟨-, -, -, -, -, -, -, -, -, hrec, -, -, -⟩ := h
  exact hrec ht hi

theorem LeavesAlone.codes_and_tree {i : Instr} {s t : State} (h : LeavesAlone i s t) (hb : i ≠ .build)
    (hc : i ≠ .codes) (hd : i ≠ .deserialize) (hi : i ≠ .clear) : t.ct = s.ct ∧ t.tree = s.tree := by
  obtain ⟨-, htree, hct, -⟩ := h
  exact ⟨hct hb hc hd hi, htree hb hd hi⟩

/-! ### STATUS stays legal (10_state.md R21) -/

theorem statusLegal_congr {s t : State} (h : t.status = s.status) : StatusLegal t ↔ StatusLegal s := by
  simp [StatusLegal, State.done, State.err, State.flag, h]

theorem statusLegal_reset : StatusLegal State.reset := ⟨by decide, by decide⟩

theorem statusLegal_resetEvent (s : State) : StatusLegal s.resetEvent := (statusLegal_congr rfl).mp statusLegal_reset

theorem exec_keeps_statusLegal (i : Instr) (s t : State) (hs : StatusLegal s) (h : exec i s = .next t) :
    StatusLegal t := by
  have hres := (commandsWriteOnlyWhatTheirRowMarks i s t h).reserved
  rcases exec_ends h with rfl | ⟨e, -, herr, rfl⟩
  · exact hs
  · refine ⟨hres.trans hs.1, ?_⟩
    simp [Ending.state_done herr]

theorem illegalCommand_keeps_statusLegal (w : Byte) (s t : State) (hs : StatusLegal s)
    (h : illegalCommand w s = .next t) : StatusLegal t := by
  rcases accept_next h with ⟨-, rfl⟩ | ⟨-, rfl⟩
  · exact hs
  · exact ⟨by simpa using hs.1, by simp⟩

theorem hostMove_keeps_statusLegal (a : HostAction) (s t : State) (hs : StatusLegal s)
    (ha : ∀ v, a ≠ .writeReg 0 v) (h : hostMove a s = .next t) : StatusLegal t := by
  rcases hostMove_next ha h with rfl | ⟨hstatus, -⟩
  · exact statusLegal_resetEvent s
  · exact (statusLegal_congr hstatus).mpr hs

/-- Settles O53: commands, reserved words and the other host moves each keep STATUS legal. -/
theorem stepKeepsStatusLegal : Obligations.StepKeepsStatusLegal := fun _ _ =>
  step_keeps (fun _ _ h => h) exec_keeps_statusLegal illegalCommand_keeps_statusLegal hostMove_keeps_statusLegal

/-! ### The error record stays legal (10_state.md R22, R23; 60_exceptions.md R170) -/

theorem errorRecordLegal_of_no_error {s : State} (herr : s.err = false) (hcode : s.errcode = 0#8)
    (hinfo : s.errinfo = 0) : ErrorRecordLegal s :=
  ⟨fun _ => ⟨hcode, hinfo⟩, fun h => by simp [herr] at h⟩

theorem errorRecordLegal_errorEntry (k : ErrorKind) (n : Nat) (u : State) : ErrorRecordLegal (u.errorEntry k n) :=
  ⟨fun h => by simp at h, fun _ => ⟨⟨k, rfl⟩, rfl, rfl, rfl⟩⟩

theorem errorRecordLegal_reset : ErrorRecordLegal State.reset := errorRecordLegal_of_no_error (by decide) rfl rfl

theorem errorRecordLegal_resetEvent (s : State) : ErrorRecordLegal s.resetEvent := errorRecordLegal_reset

theorem exec_keeps_errorRecordLegal (i : Instr) (s t : State) (hs : ErrorRecordLegal s) (h : exec i s = .next t) :
    ErrorRecordLegal t := by
  have hframe := commandsWriteOnlyWhatTheirRowMarks i s t h
  by_cases hi : i = .clear
  · subst hi
    cases h
    exact errorRecordLegal_of_no_error (by simp) rfl rfl
  rcases exec_next hi h with ⟨-, rfl⟩ | ⟨hok, ht⟩
  · exact hs
  cases he : commandBody i (s.setFlag .done false) with
  | raised k n u =>
    rw [ht, he]
    exact errorRecordLegal_errorEntry k n u
  | completed u =>
    have herr : t.err = false := by
      have := commandBody_reached_err i (s.setFlag .done false)
      simpa [ht, he, hi, hok] using this
    obtain ⟨hcode, hinfo⟩ := hframe.errorRecord herr hi
    obtain ⟨hcode0, hinfo0⟩ := hs.1 hok
    exact errorRecordLegal_of_no_error herr (hcode.trans hcode0) (hinfo.trans hinfo0)

theorem illegalCommand_keeps_errorRecordLegal (w : Byte) (s t : State) (hs : ErrorRecordLegal s)
    (h : illegalCommand w s = .next t) : ErrorRecordLegal t := by
  rcases accept_next h with ⟨-, rfl⟩ | ⟨-, rfl⟩
  · exact hs
  · exact errorRecordLegal_errorEntry _ _ _

theorem hostMove_keeps_errorRecordLegal (a : HostAction) (s t : State) (hs : ErrorRecordLegal s)
    (ha : ∀ v, a ≠ .writeReg 0 v) (h : hostMove a s = .next t) : ErrorRecordLegal t := by
  rcases hostMove_next ha h with rfl | ⟨hstatus, hcode, hinfo, hsym, hbit, hts, -⟩
  · exact errorRecordLegal_resetEvent s
  · have herr : t.err = s.err := State.flag_congr hstatus .err
    simpa [ErrorRecordLegal, herr, hcode, hinfo, hsym, hbit, hts] using hs

/-- Settles O54: commands, reserved words and the other host moves each keep the error record legal. -/
theorem stepKeepsErrorRecordLegal : Obligations.StepKeepsErrorRecordLegal := fun _ _ =>
  step_keeps (fun _ _ h => h) exec_keeps_errorRecordLegal illegalCommand_keeps_errorRecordLegal
    hostMove_keeps_errorRecordLegal

/-! ### CT stays invalid or the code table of TREE (10_state.md R16, R17) -/

theorem codesOfTree_congr {s t : State} (hct : t.ct = s.ct) (htree : t.tree = s.tree) :
    CodesOfTree t ↔ CodesOfTree s := by
  unfold CodesOfTree
  rw [hct, htree]

/-- The end of a command writes neither CT nor TREE. -/
theorem codesOfTree_state (e : Ending) : CodesOfTree e.state ↔ CodesOfTree e.reached := by
  cases e <;> exact codesOfTree_congr rfl rfl

theorem codesOfTree_of_noCodes {s : State} (h : s.ct = noCodes) : CodesOfTree s := .inl h

/-- The commands whose row marks CT as written invalidate it, but for a CODES that completes, which fills it from TREE. -/
theorem codesOfTree_reached (i : Instr) (s : State)
    (hi : i = .build ∨ i = .codes ∨ i = .deserialize ∨ i = .clear) : CodesOfTree (commandBody i s).reached := by
  rcases hi with rfl | rfl | rfl | rfl
  · exact codesOfTree_of_noCodes (congrArg State.ct (buildBody_reached s))
  · obtain ⟨ct, hu, hct⟩ := codesBody_reached s
    show CodesOfTree (codesBody s).reached
    rw [hu]
    exact hct
  · obtain ⟨T, n, hu⟩ := deserializeBody_reached s
    exact codesOfTree_of_noCodes (congrArg State.ct hu)
  · exact codesOfTree_of_noCodes rfl

theorem exec_keeps_codesOfTree (i : Instr) (s t : State) (hs : CodesOfTree s) (h : exec i s = .next t) :
    CodesOfTree t := by
  by_cases hi : i = .build ∨ i = .codes ∨ i = .deserialize ∨ i = .clear
  · rcases exec_ends h with rfl | ⟨e, rfl, -, rfl⟩
    · exact hs
    · exact (codesOfTree_state _).mpr (codesOfTree_reached i _ hi)
  · obtain ⟨hb, hc, hd, hcl⟩ : i ≠ .build ∧ i ≠ .codes ∧ i ≠ .deserialize ∧ i ≠ .clear := by simpa using hi
    obtain ⟨hct, htree⟩ := (commandsWriteOnlyWhatTheirRowMarks i s t h).codes_and_tree hb hc hd hcl
    exact (codesOfTree_congr hct htree).mpr hs

theorem illegalCommand_keeps_codesOfTree (w : Byte) (s t : State) (hs : CodesOfTree s)
    (h : illegalCommand w s = .next t) : CodesOfTree t := by
  rcases accept_next h with ⟨-, rfl⟩ | ⟨-, rfl⟩ <;> exact hs

theorem hostMove_keeps_codesOfTree (a : HostAction) (s t : State) (hs : CodesOfTree s)
    (ha : ∀ v, a ≠ .writeReg 0 v) (h : hostMove a s = .next t) : CodesOfTree t := by
  rcases hostMove_next ha h with rfl | ⟨-, -, -, -, -, -, hct, htree, -⟩
  · exact codesOfTree_of_noCodes rfl
  · exact (codesOfTree_congr hct htree).mpr hs

/-- Settles O55: commands, reserved words and the other host moves each keep CT invalid or the code table of TREE. -/
theorem stepKeepsCodesOfTree : Obligations.StepKeepsCodesOfTree := fun _ _ =>
  step_keeps (fun _ _ h => h) exec_keeps_codesOfTree illegalCommand_keeps_codesOfTree hostMove_keeps_codesOfTree

/-- Settles O57: the reset state has STATUS 0x00, no error, an invalid CT and empty storage. -/
theorem resetMeetsTheInvariants : Obligations.ResetMeetsTheInvariants :=
  ⟨statusLegal_reset, errorRecordLegal_reset, codesOfTree_of_noCodes rfl, Memory.wf_reset⟩

/-! ### What a command's results depend on (10_state.md R31) -/

/-- Two runs of a rule end alike: both complete with the same results, or both raise the same error. -/
def EndAlike (i : Instr) (e e' : Ending) : Prop :=
  (∃ u u', e = .completed u ∧ e' = .completed u' ∧ SameResults i u u') ∨
    ∃ k n u u', e = .raised k n u ∧ e' = .raised k n u'

theorem endAlike_completed {i : Instr} {u u' : State} (h : SameResults i u u') :
    EndAlike i (.completed u) (.completed u') := .inl ⟨u, u', rfl, rfl, h⟩

theorem endAlike_raised (i : Instr) (k : ErrorKind) (n : Nat) (u u' : State) :
    EndAlike i (.raised k n u) (.raised k n u') := .inr ⟨k, n, u, u', rfl, rfl⟩

/-- The clearing of DONE at acceptance changes no operand. -/
theorem sameOperands_setFlag {i : Instr} {s s' : State} (h : SameOperands i s s') (f : StatusFlag) (b : Bool) :
    SameOperands i (s.setFlag f b) (s'.setFlag f b) := by
  cases i <;> exact h

/-- DONE is no result that a row marks as written. -/
theorem sameResults_setFlag_done {i : Instr} {u u' : State} (h : SameResults i u u') (b : Bool) :
    SameResults i (u.setFlag .done b) (u'.setFlag .done b) := by
  have hkeep (hempty : u.empty = u'.empty) : (u.setFlag .done b).empty = (u'.setFlag .done b).empty := by
    simpa using hempty
  cases i with
  | count =>
    obtain ⟨hft, hempty⟩ := h
    exact ⟨hft, hkeep hempty⟩
  | deserialize =>
    obtain ⟨htree, hct, htspos, hempty⟩ := h
    exact ⟨htree, hct, htspos, hkeep hempty⟩
  | clear =>
    obtain ⟨hft, htree, hct, hsi, hbi, hti, hso, hbo, hto, hempty, htspos⟩ := h
    exact ⟨hft, htree, hct, hsi, hbi, hti, hso, hbo, hto, hkeep hempty, htspos⟩
  | _ => exact h

theorem symIn_len_eq_of_symInSeq {s s' : State} (h : s.symInSeq = s'.symInSeq) : s.symIn.len = s'.symIn.len := by
  simpa using congrArg List.length h

theorem tsIn_len_eq_of_tsInSeq {s s' : State} (h : s.tsInSeq = s'.tsInSeq) : s.tsIn.len = s'.tsIn.len := by
  simpa using congrArg List.length h

theorem startDeserialize_empty_eq {s s' : State} (h : s.tsIn.len = s'.tsIn.len) :
    s.startDeserialize.empty = s'.startDeserialize.empty := by
  simp [h]

/-! The rule of each command ends alike from two states that agree on its operands. -/

theorem countBody_endAlike {s s' : State} (h : s.symInSeq = s'.symInSeq) :
    EndAlike .count (countBody s) (countBody s') :=
  endAlike_completed ⟨congrArg (countInto (Table.fill 0)) h, by simp [symIn_len_eq_of_symInSeq h]⟩

theorem buildBody_endAlike {s s' : State} (h : s.ft = s'.ft) : EndAlike .build (buildBody s) (buildBody s') := by
  unfold buildBody
  rw [h]
  cases allZero s'.ft with
  | true => exact endAlike_raised ..
  | false => exact endAlike_completed ⟨rfl, rfl⟩

theorem codesBody_endAlike {s s' : State} (h : s.tree = s'.tree) : EndAlike .codes (codesBody s) (codesBody s') := by
  unfold codesBody
  rw [h]
  cases s'.tree with
  | none => exact endAlike_raised ..
  | some T =>
    dsimp only
    cases codeTable T with
    | error sym => exact endAlike_raised ..
    | ok ct => exact endAlike_completed rfl

theorem encodeBody_endAlike {s s' : State} (hin : s.symInSeq = s'.symInSeq) (hct : s.ct = s'.ct) :
    EndAlike .encode (encodeBody s) (encodeBody s') := by
  unfold encodeBody
  rw [hin, hct]
  cases encodeSeq s'.ct 0 s'.symInSeq with
  | error i => exact endAlike_raised ..
  | ok out => exact endAlike_completed rfl

theorem decodeBody_endAlike {s s' : State} (hin : s.bitInSeq = s'.bitInSeq) (htree : s.tree = s'.tree) :
    EndAlike .decode (decodeBody s) (decodeBody s') := by
  unfold decodeBody
  rw [hin, htree]
  cases s'.tree with
  | none => exact endAlike_raised ..
  | some T =>
    dsimp only
    cases decodeSeq T s'.bitInSeq with
    | error i => exact endAlike_raised ..
    | ok out => exact endAlike_completed rfl

theorem deserializeBody_endAlike {s s' : State} (h : s.tsInSeq = s'.tsInSeq) :
    EndAlike .deserialize (deserializeBody s) (deserializeBody s') := by
  have hlen := tsIn_len_eq_of_tsInSeq h
  have hempty := startDeserialize_empty_eq hlen
  unfold deserializeBody
  rw [h, hlen]
  cases s'.tsIn.len with
  | zero => exact endAlike_completed ⟨rfl, rfl, rfl, hempty⟩
  | succ n =>
    dsimp only
    cases parseString s'.tsInSeq with
    | error pos => exact endAlike_raised ..
    | ok p => exact endAlike_completed ⟨rfl, rfl, rfl, hempty⟩

theorem clear_endAlike (s s' : State) : EndAlike .clear (.completed s.clearAll) (.completed s'.clearAll) :=
  endAlike_completed ⟨rfl, rfl, rfl, rfl, rfl, rfl, rfl, rfl, rfl, by simp, rfl⟩

theorem commandBody_endAlike {i : Instr} {s s' : State} (h : SameOperands i s s') :
    EndAlike i (commandBody i s) (commandBody i s') := by
  cases i with
  | nop => exact endAlike_completed trivial
  | count => exact countBody_endAlike h
  | build => exact buildBody_endAlike h
  | codes => exact codesBody_endAlike h
  | encode => exact encodeBody_endAlike h.1 h.2
  | decode => exact decodeBody_endAlike h.1 h.2
  | serialize => exact endAlike_completed (congrArg serialize h)
  | deserialize => exact deserializeBody_endAlike h
  | clear => exact clear_endAlike s s'

/-- What the ends of two rules that end alike leave, when both have reached ERR = 0. -/
theorem EndAlike.states_agree {i : Instr} {e e' : Ending} (h : EndAlike i e e') (he : e.reached.err = false)
    (he' : e'.reached.err = false) :
    e.state.err = e'.state.err ∧
      (e.state.err = true → e.state.errcode = e'.state.errcode ∧ e.state.errinfo = e'.state.errinfo) ∧
      (e.state.err = false → SameResults i e.state e'.state) := by
  obtain ⟨u, u', rfl, rfl, hres⟩ | ⟨k, n, u, u', rfl, rfl⟩ := h
  · simp only [Ending.reached_completed] at he he'
    simp [he, he', sameResults_setFlag_done hres true]
  · simp

/-- Settles O8: with ERR = 0 both states run the rule, and the two rules end alike. -/
theorem resultsDependOnTheOperandsAlone : Obligations.ResultsDependOnTheOperandsAlone := by
  intro i s s' hs hs' hop
  refine ⟨_, _, exec_of_ok i s hs, exec_of_ok i s' hs', ?_⟩
  refine (commandBody_endAlike (sameOperands_setFlag hop .done false)).states_agree ?_ ?_
  · simp [commandBody_reached_err, hs]
  · simp [commandBody_reached_err, hs']

/-! ### Paths in a tree -/

@[simp] theorem Tree.symAt_leaf_nil (s : Byte) (f : Nat) : (Tree.leaf s f).symAt [] = some s := rfl

@[simp] theorem Tree.symAt_leaf_cons (s : Byte) (f : Nat) (b : Bit) (p : List Bit) :
    (Tree.leaf s f).symAt (b :: p) = none := rfl

theorem Tree.symAt_leaf (s c : Byte) (f : Nat) (p : List Bit) :
    (Tree.leaf s f).symAt p = some c ↔ p = [] ∧ c = s := by
  cases p <;> simp [eq_comm]

@[simp] theorem Tree.symAt_internal_nil (f : Nat) (l r : Tree) : (Tree.internal f l r).symAt [] = none := rfl

@[simp] theorem Tree.symAt_internal_cons (f : Nat) (l r : Tree) (b : Bit) (p : List Bit) :
    (Tree.internal f l r).symAt (b :: p) = if b then r.symAt p else l.symAt p := by
  cases b <;> rfl

/-- Every tree has a leaf. -/
theorem Tree.exists_symAt (t : Tree) : ∃ p c, t.symAt p = some c := by
  induction t with
  | leaf s f => exact ⟨[], s, rfl⟩
  | internal f l r ihl _ =>
    obtain ⟨p, c, h⟩ := ihl
    exact ⟨false :: p, c, by simpa using h⟩

/-- No path to a leaf properly extends another path to a leaf. -/
theorem Tree.eq_of_symAt_prefix {t : Tree} {p q : List Bit} {a b : Byte} (hp : t.symAt p = some a)
    (hq : t.symAt q = some b) (hpq : p <+: q) : p = q := by
  induction t generalizing p q with
  | leaf s f =>
    obtain ⟨rfl, -⟩ := (Tree.symAt_leaf _ _ _ _).mp hp
    obtain ⟨rfl, -⟩ := (Tree.symAt_leaf _ _ _ _).mp hq
    rfl
  | internal f l r ihl ihr =>
    match p, q, hp, hq with
    | x :: p, y :: q, hp, hq =>
      obtain ⟨rfl, htail⟩ := List.cons_prefix_cons.mp hpq
      simp only [Tree.symAt_internal_cons] at hp hq
      cases x with
      | false => rw [ihl hp hq htail]
      | true => rw [ihr hp hq htail]

/-! ### The laws of CT (10_state.md R17) -/

/-- The walk of CODES adds to the table exactly the paths from the node it starts at (42_codes.md R102). -/
theorem get_of_walk {t : Tree} {path : List Bit} {ct ct' : Table (Option (List Bit))} (h : walk t path ct = .ok ct')
    (c : Byte) (p : List Bit) :
    Table.get ct' c = some p ↔ Table.get ct c = some p ∨ ∃ q, p = path ++ q ∧ t.symAt q = some c := by
  induction t generalizing path ct ct' with
  | leaf s f =>
    simp only [walk] at h
    split at h
    · cases h
    · next hnone =>
      cases h
      by_cases hc : c = s
      · subst hc
        simp [hnone, Tree.symAt_leaf, eq_comm (a := path)]
      · simp [Table.get_put, hc, Tree.symAt_leaf]
  | internal f l r ihl ihr =>
    simp only [walk] at h
    split at h
    · cases h
    · next ct₁ hl =>
      rw [ihr h, ihl hl, or_assoc]
      refine or_congr_right ⟨?_, ?_⟩
      · rintro (⟨q, rfl, hq⟩ | ⟨q, rfl, hq⟩)
        · exact ⟨false :: q, by simp, by simpa using hq⟩
        · exact ⟨true :: q, by simp, by simpa using hq⟩
      · rintro ⟨q, rfl, hq⟩
        match q, hq with
        | false :: q, hq => exact .inl ⟨q, by simp, by simpa using hq⟩
        | true :: q, hq => exact .inr ⟨q, by simp, by simpa using hq⟩

/-- The code table of a tree with two or more leaves holds exactly the paths from the root (42_codes.md R102). -/
theorem get_codeTable_internal {f : Nat} {l r : Tree} {ct : Table (Option (List Bit))}
    (h : codeTable (.internal f l r) = .ok ct) (c : Byte) (p : List Bit) :
    Table.get ct c = some p ↔ (Tree.internal f l r).symAt p = some c := by
  simpa using get_of_walk (h : walk (.internal f l r) [] noCodes = .ok ct) c p

/-- The code table of a lone leaf holds `[0]` at its symbol and nothing else (42_codes.md R103). -/
theorem get_codeTable_leaf {s : Byte} {f : Nat} {ct : Table (Option (List Bit))} (h : codeTable (.leaf s f) = .ok ct)
    (c : Byte) (p : List Bit) : Table.get ct c = some p ↔ c = s ∧ p = [false] := by
  cases h
  by_cases hc : c = s <;> simp [Table.get_put, hc, eq_comm]

theorem mem_validSymbols (ct : Table (Option (List Bit))) (c : Byte) :
    c ∈ validSymbols ct ↔ ∃ p, Table.get ct c = some p := by
  simp [validSymbols, Option.isSome_iff_exists]

theorem nodup_validSymbols (ct : Table (Option (List Bit))) : (validSymbols ct).Nodup :=
  List.Nodup.filter _ nodup_allSymbols

theorem validSymbols_noCodes : validSymbols noCodes = [] :=
  List.eq_nil_iff_forall_not_mem.mpr fun c hc => by simpa using (mem_validSymbols noCodes c).mp hc

/-- A lone leaf gives no more than one valid entry. -/
theorem length_validSymbols_leaf {s : Byte} {f : Nat} {ct : Table (Option (List Bit))}
    (h : codeTable (.leaf s f) = .ok ct) : (validSymbols ct).length ≤ 1 := by
  have hsub : validSymbols ct ⊆ [s] := fun c hc => by
    obtain ⟨p, hp⟩ := (mem_validSymbols ct c).mp hc
    exact List.mem_singleton.mpr ((get_codeTable_leaf h c p).mp hp).1
  exact (List.subperm_of_subset (nodup_validSymbols ct) hsub).length_le

/-- A tree with two or more leaves never gives a lone valid entry: a leaf on the left and a leaf on the right would have
one code. -/
theorem validSymbols_internal_ne_singleton {f : Nat} {l r : Tree} {ct : Table (Option (List Bit))}
    (h : codeTable (.internal f l r) = .ok ct) (c : Byte) : validSymbols ct ≠ [c] := by
  intro hc
  have honly : ∀ d p, Table.get ct d = some p → d = c := fun d p hd =>
    List.mem_singleton.mp (hc ▸ (mem_validSymbols ct d).mpr ⟨p, hd⟩)
  obtain ⟨p, a, hp⟩ := l.exists_symAt
  obtain ⟨q, b, hq⟩ := r.exists_symAt
  have ha : Table.get ct a = some (false :: p) := (get_codeTable_internal h _ _).mpr (by simpa using hp)
  have hb : Table.get ct b = some (true :: q) := (get_codeTable_internal h _ _).mpr (by simpa using hq)
  rw [honly a _ ha] at ha
  rw [honly b _ hb, ha] at hb
  simp at hb

theorem prefixFree_codeTable_leaf {s : Byte} {f : Nat} {ct : Table (Option (List Bit))}
    (h : codeTable (.leaf s f) = .ok ct) : PrefixFree ct := by
  intro a b p q hab ha hb
  obtain ⟨rfl, -⟩ := (get_codeTable_leaf h a p).mp ha
  obtain ⟨rfl, -⟩ := (get_codeTable_leaf h b q).mp hb
  exact absurd rfl hab

theorem prefixFree_codeTable_internal {f : Nat} {l r : Tree} {ct : Table (Option (List Bit))}
    (h : codeTable (.internal f l r) = .ok ct) : PrefixFree ct := by
  intro a b p q hab ha hb hpq
  rw [get_codeTable_internal h] at ha hb
  obtain rfl := Tree.eq_of_symAt_prefix ha hb hpq
  exact hab (Option.some.inj (ha.symm.trans hb))

/-- Settles O28: CT is the code table of TREE, which is a lone leaf or has two or more leaves. -/
theorem codeTableLaws : Obligations.CodeTableLaws := by
  intro s hs hvalid
  obtain hct | ⟨T, hT, hct⟩ := hs
  · exact absurd (hct ▸ validSymbols_noCodes) hvalid
  cases T with
  | leaf c f =>
    have hget := get_codeTable_leaf hct
    refine ⟨fun d p hd => ?_, prefixFree_codeTable_leaf hct, fun d hd => ?_, fun h2 => ?_⟩
    · simp [((hget d p).mp hd).2]
    · obtain ⟨p, hp⟩ := (mem_validSymbols s.ct d).mp (by simp [hd])
      rw [hp, ((hget d p).mp hp).2]
    · have := length_validSymbols_leaf hct
      omega
  | internal f l r =>
    have hget := get_codeTable_internal hct
    refine ⟨fun d p hd => ?_, prefixFree_codeTable_internal hct, fun d hd => ?_, fun _ => ⟨_, hT, hget⟩⟩
    · rintro rfl
      simp [hget] at hd
    · exact absurd hd (validSymbols_internal_ne_singleton hct d)

/-! ### The host's registers and tables (10_state.md R12, R16, R19, R35) -/

/-- A number above 10 is no register and reads 0 (10_state.md R19). -/
theorem readRegister_above (s : State) {n : Nat} (h : 10 < n) : s.readRegister n = 0 := by
  unfold State.readRegister
  split <;> omega

/-- A register that is neither CMD nor an input length is not written (10_state.md R19, R35). -/
theorem writeRegister_read_only (s : State) {n v : Nat} (h0 : n ≠ 0) (h5 : n ≠ 5) (h6 : n ≠ 6) (h7 : n ≠ 7) :
    writeRegister n v s = .next s := by
  unfold writeRegister
  split <;> [contradiction; contradiction; contradiction; contradiction; rfl]

/-- Settles O46: each register is read and written by its own row of 10_state.md R19. -/
theorem registerFileReadsAndWrites : Obligations.RegisterFileReadsAndWrites := fun s =>
  ⟨rfl, rfl, rfl, rfl, rfl, rfl, rfl, rfl, rfl, rfl, rfl, fun _ hn => congrArg ReadValue.nat (readRegister_above s hn),
    fun _ => rfl, fun _ => rfl, fun _ => rfl, fun _ _ h0 h5 h6 h7 => writeRegister_read_only s h0 h5 h6 h7,
    fun _ _ _ => rfl⟩

/-- Settles O47: the reads are the tables' entries, and the write is read back by `Table.get_put`. -/
theorem tablesReadAsTheyStand : Obligations.TablesReadAsTheyStand := by
  intro s c
  refine ⟨rfl, fun h => congrArg entryRead h, fun code h => congrArg entryRead h,
    fun v => ⟨_, rfl, Table.get_put_self s.ft c v, fun d hd => ?_⟩⟩
  exact (Table.get_put s.ft c d v).trans (if_neg hd)

/-- Settles O51: the host's step takes the write to CMD, which issues the word's command. -/
theorem stepRunsTheDecodedCommand : Obligations.StepRunsTheDecodedCommand := by
  intro s v rest i hhost hdec
  have hissue : step s = issue (BitVec.ofNat 8 v) { s with host := rest } := by
    unfold step hostStep
    rw [hhost]
    rfl
  rw [hissue]
  unfold issue
  rw [hdec]

end Sys2Proof.Machine
end

section
/-! Proofs about the buffers (20_memory.md): the canonical form of the element storage, the host's writes of input elements
and the host's reads. -/

namespace Sys2Proof.Machine

/-! ### The element storage stays canonical (20_memory.md R40, R45) -/

theorem storageCanonical_congr {s t : State} (hsym : t.symIn.cells = s.symIn.cells)
    (hbit : t.bitIn.cells = s.bitIn.cells) (hts : t.tsIn.cells = s.tsIn.cells) :
    StorageCanonical t ↔ StorageCanonical s := by
  unfold StorageCanonical
  rw [hsym, hbit, hts]

theorem storageCanonical_clearAll (s : State) : StorageCanonical s.clearAll := Memory.wf_reset

theorem storageCanonical_resetEvent (s : State) : StorageCanonical s.resetEvent := Memory.wf_reset

theorem LeavesAlone.inputs {i : Instr} {s t : State} (h : LeavesAlone i s t) (hi : i ≠ .clear) :
    t.symIn = s.symIn ∧ t.bitIn = s.bitIn ∧ t.tsIn = s.tsIn := by
  obtain ⟨-, -, -, hin, -⟩ := h
  obtain ⟨hsym, hbit, hts, -⟩ := hin hi
  exact ⟨hsym, hbit, hts⟩

/-- A register write that issues no command writes no element of an input buffer, only lengths (10_state.md R19). -/
theorem writeRegister_keeps_cells {n v : Nat} {s t : State} (hn : n ≠ 0) (h : writeRegister n v s = .next t) :
    t.symIn.cells = s.symIn.cells ∧ t.bitIn.cells = s.bitIn.cells ∧ t.tsIn.cells = s.tsIn.cells := by
  unfold writeRegister at h
  split at h
  · contradiction
  all_goals (cases h; exact ⟨rfl, rfl, rfl⟩)

theorem exec_keeps_storageCanonical (i : Instr) (s t : State) (hs : StorageCanonical s) (h : exec i s = .next t) :
    StorageCanonical t := by
  by_cases hi : i = .clear
  · subst hi
    cases h
    exact storageCanonical_clearAll s
  · obtain ⟨hsym, hbit, hts⟩ := (commandsWriteOnlyWhatTheirRowMarks i s t h).inputs hi
    exact (storageCanonical_congr (congrArg _ hsym) (congrArg _ hbit) (congrArg _ hts)).mpr hs

theorem illegalCommand_keeps_storageCanonical (w : Byte) (s t : State) (hs : StorageCanonical s)
    (h : illegalCommand w s = .next t) : StorageCanonical t := by
  rcases accept_next h with ⟨-, rfl⟩ | ⟨-, rfl⟩ <;> exact hs

/-- Of the host's other moves only the element writes and the reset event reach the storage. -/
theorem hostMove_keeps_storageCanonical (a : HostAction) (s t : State) (hs : StorageCanonical s)
    (ha : ∀ v, a ≠ .writeReg 0 v) (h : hostMove a s = .next t) : StorageCanonical t := by
  have ⟨hsym, hbit, hts⟩ := hs
  cases a with
  | writeReg n v =>
    have hn : n ≠ 0 := fun h0 => ha v (h0 ▸ rfl)
    obtain ⟨hsym', hbit', hts'⟩ := writeRegister_keeps_cells hn h
    exact (storageCanonical_congr hsym' hbit' hts').mpr hs
  | writeSymIn i v => cases h; exact ⟨Memory.wf_write _ i v hsym, hbit, hts⟩
  | writeBitIn i v => cases h; exact ⟨hsym, Memory.wf_write _ i v hbit, hts⟩
  | writeTsIn i v => cases h; exact ⟨hsym, hbit, Memory.wf_write _ i v hts⟩
  | writeFt sym v => cases h; exact hs
  | writeCt sym valid code => cases h; exact hs
  | read r => cases h; exact hs
  | reset => cases h; exact storageCanonical_resetEvent s

/-- Settles O56: commands, reserved words and the other host moves each keep the storage canonical. -/
theorem stepKeepsStorageCanonical : Obligations.StepKeepsStorageCanonical := fun _ _ =>
  step_keeps (fun _ _ h => h) exec_keeps_storageCanonical illegalCommand_keeps_storageCanonical
    hostMove_keeps_storageCanonical

/-! ### Input elements are what the host last wrote (20_memory.md R45) -/

/-- The written element is read back, whatever an unwritten element would read as. -/
theorem Memory.getD_read?_write_self {α : Type} (m : Memory α) (i : Nat) (v free : α) :
    (Memory.read? (Memory.write m i v) i).getD free = v :=
  congrArg (Option.getD · free) (Memory.read?_write_self m i v)

/-- Every other element reads as before, whether it was ever written or not. -/
theorem Memory.getD_read?_write_other {α : Type} (m : Memory α) (v free : α) {i j : Nat} (h : j ≠ i) :
    (Memory.read? (Memory.write m i v) j).getD free = (Memory.read? m j).getD free :=
  congrArg (Option.getD · free) (Memory.read?_write_other m i j v h)

/-- Settles O48: each element write is a `Memory.write` on the storage of its own buffer. -/
theorem elementWritesAreReadBack : Obligations.ElementWritesAreReadBack := fun _ i =>
  ⟨fun v => ⟨_, rfl, Memory.getD_read?_write_self _ i v _, fun _ => Memory.getD_read?_write_other _ v _, rfl⟩,
    fun v => ⟨_, rfl, Memory.getD_read?_write_self _ i v _, fun _ => Memory.getD_read?_write_other _ v _, rfl⟩,
    fun v => ⟨_, rfl, Memory.getD_read?_write_self _ i v _, fun _ => Memory.getD_read?_write_other _ v _, rfl⟩⟩

/-! ### Reads (20_memory.md R46, R47)

Below a buffer's length a read is the element, and no free value. -/

@[simp] theorem hostRead_symIn {s : State} {i : Nat} (h : i < s.symIn.len) :
    s.hostRead (.symIn i) = .byte (s.symInAt i) :=
  congrArg ReadValue.byte (if_pos h)

@[simp] theorem hostRead_bitIn {s : State} {i : Nat} (h : i < s.bitIn.len) :
    s.hostRead (.bitIn i) = .bit (s.bitInAt i) :=
  congrArg ReadValue.bit (if_pos h)

@[simp] theorem hostRead_tsIn {s : State} {i : Nat} (h : i < s.tsIn.len) :
    s.hostRead (.tsIn i) = .byte (s.tsInAt i) :=
  congrArg ReadValue.byte (if_pos h)

@[simp] theorem hostRead_symOut {s : State} {i : Nat} (h : i < s.symOut.length) :
    s.hostRead (.symOut i) = .byte s.symOut[i] := by
  simp [State.hostRead, h]

@[simp] theorem hostRead_bitOut {s : State} {i : Nat} (h : i < s.bitOut.length) :
    s.hostRead (.bitOut i) = .bit s.bitOut[i] := by
  simp [State.hostRead, h]

@[simp] theorem hostRead_tsOut {s : State} {i : Nat} (h : i < s.tsOut.length) :
    s.hostRead (.tsOut i) = .byte s.tsOut[i] := by
  simp [State.hostRead, h]

/-- Settles O49: a read adds to `seen` alone, and `seen` enters a later read only as the number of a free value. -/
theorem readsHaveNoSideEffect : Obligations.ReadsHaveNoSideEffect := by
  refine ⟨fun _ _ => rfl, fun r s t h hsymIn hbitIn htsIn hsymOut hbitOut htsOut => ?_⟩
  cases h
  cases r with
  | reg n => rfl
  | ft c => rfl
  | ct c => rfl
  | symIn i => simp [hsymIn i rfl, State.symInAt]
  | bitIn i => simp [hbitIn i rfl, State.bitInAt]
  | tsIn i => simp [htsIn i rfl, State.tsInAt]
  | symOut i => simp [hsymOut i rfl]
  | bitOut i => simp [hbitOut i rfl]
  | tsOut i => simp [htsOut i rfl]

end Sys2Proof.Machine
end

section
/-! Proofs about the command word (30_encoding.md): the decoder and the encoder, the acceptance of a write to CMD, and the
empty tree string. -/

namespace Sys2Proof

/-! ### The two fields of a command word (30_encoding.md R60, R61) -/

/-- A word is its reserved field followed by its operation code. -/
theorem cmdRsv_append_cmdOp (w : Byte) : cmdRsv w ++ cmdOp w = w :=
  (BitVec.extractLsb'_append_extractLsb'_eq_extractLsb' (show 4 = 0 + 4 from rfl)).trans BitVec.extractLsb'_eq_self

theorem word_eq_iff_fields_eq (v w : Byte) : v = w ↔ cmdRsv v = cmdRsv w ∧ cmdOp v = cmdOp w := by
  refine ⟨fun h => h ▸ ⟨rfl, rfl⟩, fun ⟨hrsv, hop⟩ => ?_⟩
  rw [← cmdRsv_append_cmdOp v, hrsv, hop, cmdRsv_append_cmdOp]

@[simp] theorem cmdRsv_encode (i : Instr) : cmdRsv (encode i) = 0#4 := by
  cases i <;> rfl

/-- An operation code selects a command's row exactly when it is that row's code. -/
theorem decodeOp_eq_ok_iff (op : BitVec 4) (i : Instr) : decodeOp op = .ok i ↔ op = cmdOp (encode i) := by
  revert op
  cases i <;> decide

/-- The decoder of R61 accepts a word when its two checks pass. -/
theorem decode_eq_ok_iff_fields (w : Byte) (i : Instr) :
    decode w = .ok i ↔ cmdRsv w = 0#4 ∧ decodeOp (cmdOp w) = .ok i := by
  unfold decode
  split <;> simp [*]

theorem decode_eq_ok_iff (w : Byte) (i : Instr) : decode w = .ok i ↔ w = encode i :=
  calc decode w = .ok i
    _ ↔ cmdRsv w = 0#4 ∧ decodeOp (cmdOp w) = .ok i := decode_eq_ok_iff_fields w i
    _ ↔ cmdRsv w = cmdRsv (encode i) ∧ cmdOp w = cmdOp (encode i) := by rw [decodeOp_eq_ok_iff, cmdRsv_encode]
    _ ↔ w = encode i := (word_eq_iff_fields_eq w (encode i)).symm

@[simp] theorem decode_encode (i : Instr) : decode (encode i) = .ok i := (decode_eq_ok_iff _ i).mpr rfl

/-- Settles O2: a word is its two fields, and each field of a decoded word is that of the command's word. -/
theorem decodeAndEncodeAgree : Obligations.DecodeAndEncodeAgree := decode_eq_ok_iff

/-- Settles O1: the nine words are the encoder's, and each edge word fails one check of R61. -/
theorem commandWordsDecodeByTheTable : Obligations.CommandWordsDecodeByTheTable :=
  ⟨decode_encode .nop, decode_encode .count, decode_encode .build, decode_encode .codes, decode_encode .encode,
    decode_encode .decode, decode_encode .serialize, decode_encode .deserialize, decode_encode .clear,
    rfl, rfl, rfl, rfl, rfl⟩

end Sys2Proof

namespace Sys2Proof.Machine

/-! ### The acceptance of a write to CMD (30_encoding.md R62) -/

theorem issue_of_decode_ok {w : Byte} {i : Instr} (h : decode w = .ok i) (s : State) : issue w s = exec i s := by
  unfold issue
  rw [h]

theorem issue_of_decode_error {w : Byte} {e : DecodeError} (h : decode w = .error e) (s : State) :
    issue w s = illegalCommand w s := by
  unfold issue
  rw [h]

/-- While ERR = 1 every command but CLEAR is ignored (60_exceptions.md R172). -/
theorem exec_of_err {i : Instr} {s : State} (hi : i ≠ .clear) (h : s.err = true) : exec i s = .next s := by
  rw [exec_eq_accept i s hi, accept_of_err _ h]

/-- While ERR = 1 every word but CLEAR's is ignored, a reserved one too (60_exceptions.md R172, R175). -/
theorem issue_of_err {w : Byte} {s : State} (hw : w ≠ 0x08#8) (h : s.err = true) : issue w s = .next s := by
  cases hd : decode w with
  | ok i =>
    have hi : i ≠ .clear := by
      rintro rfl
      exact hw ((decode_eq_ok_iff w .clear).mp hd)
    rw [issue_of_decode_ok hd, exec_of_err hi h]
  | error e =>
    rw [issue_of_decode_error hd]
    exact accept_of_err _ h

/-- A command that is accepted runs its rule from DONE = 0 to its end. -/
theorem exec_of_accepted {i : Instr} {s : State} (h : s.err = false ∨ i = .clear) :
    exec i s = .next (commandBody i (s.setFlag .done false)).state := by
  rcases h with h | rfl
  · exact exec_of_ok i s h
  · rfl

/-- The rule of an accepted command reaches its end with ERR = 0. -/
theorem reached_err_of_accepted {i : Instr} {s : State} (h : s.err = false ∨ i = .clear) :
    (commandBody i (s.setFlag .done false)).reached.err = false := by
  rcases h with h | rfl
  · simp [commandBody_reached_err, h]
  · simp [commandBody_reached_err]

/-- The clearing of DONE at acceptance does not show after error entry, which clears DONE too. -/
theorem ErrorEntered.of_setFlag_done {k : ErrorKind} {info : Nat} {u t : State} {b : Bool}
    (h : ErrorEntered k info (u.setFlag .done b) t) : ErrorEntered k info u t := by
  simpa [ErrorEntered] using h

/-- With ERR = 0 a reserved word ends in error entry with the word (60_exceptions.md R168). -/
theorem issue_reserved {w : Byte} {e : DecodeError} {s : State} (hd : decode w = .error e) (h : s.err = false) :
    ∃ t, issue w s = .next t ∧ ErrorEntered .illegalCommand w.toNat s t := by
  refine ⟨_, (issue_of_decode_error hd s).trans (accept_of_ok _ h), ?_⟩
  exact (errorEntered_errorEntry _ _ _).of_setFlag_done

/-- Settles O4: 0x08 is the one word that is accepted while ERR = 1, because it is the word of CLEAR alone. -/
theorem commandsAreAcceptedInOrder : Obligations.CommandsAreAcceptedInOrder := by
  refine fun w s => ⟨fun herr hw => issue_of_err hw herr, fun haccept => ⟨fun i hd => ?_, fun e hd => ?_⟩⟩
  · have hi : s.err = false ∨ i = .clear := haccept.imp_right fun hw => by
      subst hw
      exact Except.ok.inj (hd.symm.trans (decode_encode .clear))
    have hexec := exec_of_accepted hi
    exact ⟨_, (issue_of_decode_ok hd s).trans hexec, hexec, Ending.state_done (reached_err_of_accepted hi)⟩
  · have hok : s.err = false := haccept.resolve_right fun hw => by
      subst hw
      exact nomatch hd.symm.trans (decode_encode .clear)
    exact issue_reserved hd hok

/-! ### The empty tree string (30_encoding.md R71) -/

/-- The rule of DESERIALIZE on the empty string. -/
theorem deserializeBody_of_empty {s : State} (h : s.tsIn.len = 0) :
    deserializeBody s = .completed s.startDeserialize := by
  unfold deserializeBody
  rw [h]

/-- Settles O41: the rule completes at once with what DESERIALIZE writes before it reads a byte. -/
theorem deserializeOfTheEmptyString : Obligations.DeserializeOfTheEmptyString := by
  intro s hs hlen
  have hbody : commandBody .deserialize (s.setFlag .done false) =
      .completed (s.setFlag .done false).startDeserialize := deserializeBody_of_empty hlen
  refine ⟨_, exec_of_ok .deserialize s hs, ?_⟩
  rw [hbody]
  simp [Completed, hs, hlen]

end Sys2Proof.Machine
end

section
/-! Proofs about COUNT (40_count.md): what it leaves, the sum of the table it fills, and that the order of the input does
not matter. -/

namespace Sys2Proof.Machine

/-- Everything COUNT leaves that 40_count.md R80 speaks of, with the counts taken over the sequence in SYM_IN. -/
theorem exec_count_of_ok {s : State} (h : s.err = false) :
    ∃ t, exec .count s = .next t ∧ Completed t ∧ (∀ c, Table.get t.ft c = s.symInSeq.count c) ∧
      t.empty = (s.symIn.len == 0) ∧ t.tree = s.tree ∧ t.ct = s.ct := by
  have hexec := exec_of_ok .count s h
  obtain ⟨hct, htree⟩ :=
    (commandsWriteOnlyWhatTheirRowMarks .count s _ hexec).codes_and_tree nofun nofun nofun nofun
  refine ⟨_, hexec, ?_, fun c => ?_, ?_, htree, hct⟩
  · simp [Completed, commandBody, countBody, h]
  · simp [commandBody, countBody, get_countInto]
  · simp [commandBody, countBody]

/-- The occurrences of a symbol in SYM_IN are the indices below the length whose element it is. -/
theorem count_symInSeq (s : State) (c : Byte) :
    s.symInSeq.count c = ((List.range s.symIn.len).filter fun i => s.symInAt i == c).length := by
  rw [State.symInSeq, List.count, List.countP_map, List.countP_eq_length_filter]
  rfl

/-- Over a list that holds every value once, the numbers of occurrences sum to the length. -/
theorem sum_map_count_eq_length {α : Type} [DecidableEq α] {all : List α} (hnodup : all.Nodup) (hall : ∀ a, a ∈ all)
    (l : List α) : (all.map l.count).sum = l.length := by
  have hsum : ∑ a ∈ all.toFinset, (l : Multiset α).count a = (l : Multiset α).card :=
    Multiset.sum_count_eq_card fun a _ => List.mem_toFinset.mpr (hall a)
  simpa [List.sum_toFinset _ hnodup] using hsum

/-- The entries of a table of occurrences sum to the length of the sequence counted. -/
theorem total_eq_length {ft : Table Nat} {l : List Byte} (h : ∀ c, Table.get ft c = l.count c) :
    total ft = l.length := by
  rw [total, List.map_congr_left fun c _ => h c]
  exact sum_map_count_eq_length nodup_allSymbols mem_allSymbols l

/-- Settles O12: the counting loop starts from the zero table, so its entries are the occurrences themselves. -/
theorem countGivesTheNumberOfOccurrences : Obligations.CountGivesTheNumberOfOccurrences := by
  refine ⟨decode_encode .count, fun s h => ?_⟩
  obtain ⟨t, hexec, hdone, hft, hempty, htree, hct⟩ := exec_count_of_ok h
  refine ⟨t, hexec, hdone, fun c => (hft c).trans (count_symInSeq s c), ?_, ?_, htree, hct⟩
  · exact (total_eq_length hft).trans s.length_symInSeq
  · rw [hempty, beq_iff_eq]

/-- Settles O13: each entry is a number of occurrences, which a permutation keeps. -/
theorem countForgetsTheOrderOfTheInput : Obligations.CountForgetsTheOrderOfTheInput := by
  intro s s' h h' hperm
  obtain ⟨t, hexec, -, hft, -⟩ := exec_count_of_ok h
  obtain ⟨t', hexec', -, hft', -⟩ := exec_count_of_ok h'
  refine ⟨t, t', hexec, hexec', Table.ext fun c => ?_⟩
  rw [hft, hft', hperm.count_eq]

end Sys2Proof.Machine
end

section
/-! Proofs about BUILD (41_build.md): the keys of the table, the queue and its merge, and the tree it ends with. -/

namespace Sys2Proof.Machine

/-! ### The model's functions, one equation per case -/

theorem keyLt_iff (a b : QueueEntry) :
    keyLt a b = true ↔ a.node.freq < b.node.freq ∨ a.node.freq = b.node.freq ∧ a.seq < b.seq := by
  simp [keyLt]

theorem combine_eq (a b : Tree) : combine a b = .internal (a.freq + b.freq) a b := rfl

theorem Tree.freq_leaf (c : Byte) (f : Nat) : (Tree.leaf c f).freq = f := rfl

theorem Tree.leafPairs_leaf (c : Byte) (f : Nat) : (Tree.leaf c f).leafPairs = [(c, f)] := rfl

theorem Tree.leafPairs_internal (f : Nat) (l r : Tree) :
    (Tree.internal f l r).leafPairs = l.leafPairs ++ r.leafPairs := rfl

theorem Tree.summed_leaf (c : Byte) (f : Nat) : (Tree.leaf c f).Summed := trivial

theorem Tree.summed_internal (f : Nat) (l r : Tree) :
    (Tree.internal f l r).Summed ↔ f = l.freq + r.freq ∧ l.Summed ∧ r.Summed := .rfl

theorem buildBody_eq (s : State) :
    buildBody s = if allZero s.ft then .raised .contractViolation 0 (s.invalidateCt.writeTree none)
      else .completed (s.invalidateCt.writeTree (buildTree s.ft)) := by
  unfold buildBody
  cases allZero s.ft <;> rfl

/-! ### The keys of a frequency table (10_state.md R12) -/

theorem mem_keys (ft : Table Nat) (c : Byte) : c ∈ keys ft ↔ 0 < Table.get ft c := by simp [keys]

theorem pairwise_allSymbols : allSymbols.Pairwise (· < ·) := by
  refine List.pairwise_map.mpr (List.pairwise_lt_range.imp_of_mem fun hi hj hij => ?_)
  grind [BitVec.lt_def, BitVec.toNat_ofNat]

/-- The keys are the one ascending list of the symbols with a count. -/
theorem keys_eq {ft : Table Nat} {l : List Byte} (hl : l.Pairwise (· < ·)) (h : ∀ c, c ∈ l ↔ 0 < Table.get ft c) :
    keys ft = l :=
  (List.Pairwise.filter _ pairwise_allSymbols).eq_of_mem_iff hl fun c => (mem_keys ft c).trans (h c).symm

theorem sum_map_keys (ft : Table Nat) : ((keys ft).map (Table.get ft)).sum = total ft := by
  change ((allSymbols.filter _).map (Table.get ft)).sum = (allSymbols.map (Table.get ft)).sum
  induction allSymbols with
  | nil => rfl
  | cons c l ih => grind

/-! ### The queue (41_build.md R92, R93) -/

/-- The element of the queue that the leaf of a symbol enters as, with its sequence number. -/
def keyEntry (ft : Table Nat) (p : Byte × Nat) : QueueEntry := ⟨p.2, .leaf p.1 (Table.get ft p.1)⟩

theorem keyEntry_mk (ft : Table Nat) (c : Byte) (seq : Nat) :
    keyEntry ft (c, seq) = ⟨seq, .leaf c (Table.get ft c)⟩ := rfl

/-- The leaves enter in the order of the symbols looked at, one sequence number after another. -/
theorem leafEntries_eq (ft : Table Nat) (l : List Byte) (seq : Nat) :
    leafEntries ft l seq = ((l.filter fun c => 0 < Table.get ft c).zipIdx seq).map (keyEntry ft) := by
  induction l generalizing seq with
  | nil => rfl
  | cons c rest ih => grind [leafEntries, keyEntry_mk]

theorem leafEntries_allSymbols (ft : Table Nat) :
    leafEntries ft allSymbols 0 = (keys ft).zipIdx.map (keyEntry ft) := leafEntries_eq ft allSymbols 0

/-- No element left in the queue has a smaller key than the one taken out. -/
theorem keyLt_of_extractMin {pq rest : List QueueEntry} {e : QueueEntry} (h : extractMin pq = some (e, rest)) :
    ∀ x ∈ rest, ¬keyLt x e := by
  induction pq generalizing e rest with
  | nil => cases h
  | cons a as ih => grind [extractMin, keyLt_iff]

/-- Settles O19: no key left in the queue is below the key taken out, and with distinct sequence numbers none is equal to
it. -/
theorem queueGivesTheSmallestKeyFirst : Obligations.QueueGivesTheSmallestKeyFirst := by
  refine ⟨fun pq hnodup hne => ?_, fun ft => ?_⟩
  · obtain ⟨⟨e, rest⟩, h⟩ := Option.ne_none_iff_exists'.mp (mt (extractMin_eq_none pq).mp hne)
    have hperm := extractMin_perm h
    have hseq := (hperm.map (·.seq)).nodup hnodup
    refine ⟨e, rest, h, hperm, fun x hx => ?_⟩
    grind [keyLt_of_extractMin h x hx, keyLt_iff]
  · have hkeys := congrArg (List.map fun c => Tree.leaf c (Table.get ft c)) (List.zipIdx_map_fst 0 (keys ft))
    rw [List.map_map] at hkeys
    simp only [leafEntries_allSymbols, List.map_map, List.range_eq_range']
    exact ⟨hkeys, List.zipIdx_map_snd 0 (keys ft)⟩

/-! ### The command BUILD (41_build.md R90, R91) -/

theorem exec_build {s : State} (herr : s.err = false) :
    exec .build s = .next (buildBody (s.setFlag .done false)).state := exec_of_ok .build s herr

/-- BUILD on a table whose merge gives a tree. -/
theorem exec_build_of_some {s : State} {T : Tree} (herr : s.err = false) (h : buildTree s.ft = some T) :
    ∃ t, exec .build s = .next t ∧ Completed t ∧ t.tree = some T ∧ t.ct = noCodes ∧ t.ft = s.ft := by
  have hz : allZero s.ft = false := (buildTree_isSome s.ft).mp (Option.isSome_of_eq_some h)
  refine ⟨_, exec_build herr, ?_⟩
  simp [buildBody_eq, hz, h, Completed, herr, Ending.state]

/-- Settles O15: the all-zero test raises before the queue is made. -/
theorem buildOnAnEmptyTableIsAContractViolation : Obligations.BuildOnAnEmptyTableIsAContractViolation := by
  intro s herr hzero
  refine ⟨_, exec_build herr, ?_⟩
  rw [buildBody_eq, State.setFlag_ft, if_pos ((allZero_iff s.ft).mpr hzero)]
  exact (errorEntered_errorEntry _ _ _).of_setFlag_done (u := { s with tree := none, ct := noCodes })

/-- The merge of the keys' leaves, with the keys written out. -/
theorem buildTree_of_keys {ft : Table Nat} {l : List Byte} (h : keys ft = l) :
    buildTree ft = mergeLoop l.length l.length (l.zipIdx.map (keyEntry ft)) := by
  simp [buildTree, leafEntries_allSymbols, h]

/-- Settles O16: the lone key's leaf is the only element of the queue. -/
theorem buildOfOneSymbolIsALeaf : Obligations.BuildOfOneSymbolIsALeaf := by
  intro s c herr hc hrest
  have hkeys : keys s.ft = [c] := keys_eq (List.pairwise_singleton _ c) (by grind)
  obtain ⟨t, hexec, hdone, htree, -⟩ := exec_build_of_some herr ((buildTree_of_keys hkeys).trans rfl)
  exact ⟨t, hexec, hdone, htree⟩

/-- Two elements are merged in the order of their keys. -/
theorem mergeLoop_pair (seq : Nat) (e f : QueueEntry) :
    mergeLoop 2 seq [e, f] = some (if keyLt f e then combine f.node e.node else combine e.node f.node) := by
  cases h : keyLt f e <;> simp [mergeLoop, extractMin, h]

/-- Settles O17: with the two keys in ascending order, the queue gives the second first exactly when its frequency is
smaller. -/
theorem buildOfTwoSymbolsOrdersThem : Obligations.BuildOfTwoSymbolsOrdersThem := by
  intro s a b herr hab ha hb hrest
  have hkeys : keys s.ft = [a, b] := keys_eq (List.pairwise_pair.mpr hab) (by grind)
  have hT := (buildTree_of_keys hkeys).trans (mergeLoop_pair 2 _ _)
  obtain ⟨t, hexec, hdone, htree, -⟩ := exec_build_of_some herr hT
  refine ⟨t, hexec, hdone, htree.trans ?_⟩
  simp [keyEntry_mk, keyLt_iff, combine_eq, Tree.freq_leaf, Nat.add_comm]

/-- Settles O18: with the keys in ascending order the merge of their leaves is computed. -/
theorem buildOfTheWorkedExample : Obligations.BuildOfTheWorkedExample := by
  intro s herr hft
  have hkeys : keys s.ft = [0x61#8, 0x62#8, 0x63#8] := keys_eq (by decide) (by grind [Table.get_put, Table.get_fill])
  have hT := buildTree_of_keys hkeys
  simp only [hft, List.zipIdx_cons, List.map_cons, keyEntry_mk, Table.get_put] at hT
  obtain ⟨t, hexec, hdone, htree, -⟩ := exec_build_of_some herr (hft ▸ hT.trans rfl)
  exact ⟨t, hexec, hdone, htree⟩

/-! ### The built tree (41_build.md R92, 10_state.md R15) -/

/-- The merge keeps the leaves of the nodes in the queue and the rightness of their sums. -/
theorem mergeLoop_keeps {fuel seq : Nat} {pq : List QueueEntry} {T : Tree} (h : mergeLoop fuel seq pq = some T)
    (hpq : ∀ e ∈ pq, e.node.Summed) : T.Summed ∧ T.leafPairs.Perm (pq.flatMap fun e => e.node.leafPairs) := by
  induction fuel generalizing seq pq with
  | zero => cases h
  | succ fuel ih =>
    simp only [mergeLoop] at h
    split at h
    · cases h
    · next a pq1 ha =>
      have hperm := extractMin_perm ha
      split at h
      · next hnone =>
        obtain rfl := (extractMin_eq_none pq1).mp hnone
        cases h
        obtain rfl := List.perm_singleton.mp hperm
        simpa using hpq
      · next b pq2 hb =>
        replace hperm := hperm.trans ((extractMin_perm hb).cons a)
        have hleaves := hperm.flatMap_right fun e => e.node.leafPairs
        simp only [hperm.mem_iff, List.forall_mem_cons] at hpq
        obtain ⟨hsa, hsb, hrest⟩ := hpq
        obtain ⟨hT, hperm'⟩ := ih h (List.forall_mem_cons.mpr ⟨⟨rfl, hsa, hsb⟩, hrest⟩)
        exact ⟨hT, hperm'.trans (by simpa [combine_eq, Tree.leafPairs_internal] using hleaves.symm)⟩

/-- A tree with `k` leaves has `2k - 1` nodes. -/
theorem Tree.nodes_add_one (t : Tree) : t.nodes + 1 = 2 * t.leafPairs.length := by
  induction t with
  | leaf s f => rfl
  | internal f l r ihl ihr => grind [Tree.nodes, Tree.leafPairs_internal]

theorem Tree.freq_of_summed {t : Tree} (h : t.Summed) : t.freq = (t.leafPairs.map Prod.snd).sum := by
  induction t with
  | leaf s f => rfl
  | internal f l r ihl ihr => grind [Tree.summed_internal, Tree.leafPairs_internal, Tree.freq]

theorem flatMap_leafEntries (ft : Table Nat) :
    (leafEntries ft allSymbols 0).flatMap (fun e => e.node.leafPairs) = (keys ft).map fun c => (c, Table.get ft c) := by
  have hnodes := congrArg (List.flatMap Tree.leafPairs) (queueGivesTheSmallestKeyFirst.2 ft).1
  simpa [List.flatMap_map, Tree.leafPairs_leaf, ← List.map_eq_flatMap] using hnodes

/-- Settles O14: the merge keeps the leaves and the sums, and the other measures follow from these. -/
theorem buildMakesATreeOfTheTable : Obligations.BuildMakesATreeOfTheTable := by
  intro s herr hkeys
  obtain ⟨c, hc⟩ := List.exists_mem_of_ne_nil _ hkeys
  have hsome : (buildTree s.ft).isSome := (buildTree_isSome s.ft).mpr (by grind [allZero_iff, mem_keys])
  obtain ⟨T, hT⟩ := Option.isSome_iff_exists.mp hsome
  obtain ⟨t, hexec, hdone, htree, hct, hft⟩ := exec_build_of_some herr hT
  have hstart : ∀ e ∈ leafEntries s.ft allSymbols 0, e.node.Summed := by
    rw [leafEntries_allSymbols]
    exact List.forall_mem_map.mpr fun _ _ => Tree.summed_leaf _ _
  obtain ⟨hsum, hleaves⟩ := mergeLoop_keeps hT hstart
  replace hleaves := hleaves.trans (.of_eq (flatMap_leafEntries s.ft))
  refine ⟨t, T, hexec, hdone, htree, hleaves, hsum, ?_, ?_, hct, hft⟩
  · rw [T.nodes_add_one, hleaves.length_eq, List.length_map]
  · rw [Tree.freq_of_summed hsum, (hleaves.map _).sum_eq, List.map_map]
    exact sum_map_keys s.ft

end Sys2Proof.Machine
end

section
/-! Proofs about ENCODE (43_encode.md): the loop's two ends, the codes in input order, the length of the output, and the
lone symbol. -/

namespace Sys2Proof.Machine

/-! ### The loop of ENCODE (43_encode.md R110) -/

/-- The loop over a coded symbol writes its code before those of the rest. -/
theorem encodeSeq_cons_of_some {ct : Table (Option (List Bit))} {c : Byte} {code : List Bit}
    (h : Table.get ct c = some code) (i : Nat) (rest : List Byte) :
    encodeSeq ct i (c :: rest) = (encodeSeq ct (i + 1) rest).map (code ++ ·) := by
  rw [encodeSeq, h]
  dsimp only
  cases encodeSeq ct (i + 1) rest <;> rfl

theorem encodeSeq_cons_of_none {ct : Table (Option (List Bit))} {c : Byte} (h : Table.get ct c = none) (i : Nat)
    (rest : List Byte) : encodeSeq ct i (c :: rest) = .error i := by
  rw [encodeSeq, h]

theorem codeOf_of_some {ct : Table (Option (List Bit))} {c : Byte} {code : List Bit} (h : Table.get ct c = some code) :
    codeOf ct c = code := by
  simp [codeOf, h]

/-- The loop goes through a stretch of coded symbols, whatever follows. -/
theorem encodeSeq_append {ct : Table (Option (List Bit))} {l : List Byte} (h : ∀ c ∈ l, (Table.get ct c).isSome)
    (i : Nat) (rest : List Byte) :
    encodeSeq ct i (l ++ rest) = (encodeSeq ct (i + l.length) rest).map (l.flatMap (codeOf ct) ++ ·) := by
  induction l generalizing i with
  | nil => cases hr : encodeSeq ct i rest <;> simp [hr, Except.map]
  | cons c l ih =>
    obtain ⟨hc, hl⟩ := List.forall_mem_cons.mp h
    obtain ⟨code, hcode⟩ := Option.isSome_iff_exists.mp hc
    have hidx : i + 1 + l.length = i + (c :: l).length := by rw [List.length_cons]; omega
    rw [List.cons_append, encodeSeq_cons_of_some hcode, ih hl, hidx]
    cases encodeSeq ct (i + (c :: l).length) rest <;> simp [Except.map, codeOf_of_some hcode]

theorem encodeSeq_of_codes {ct : Table (Option (List Bit))} {l : List Byte} (h : ∀ c ∈ l, (Table.get ct c).isSome)
    (i : Nat) : encodeSeq ct i l = .ok (l.flatMap (codeOf ct)) := by
  simpa [encodeSeq, Except.map] using encodeSeq_append h i []

theorem encodeSeq_of_missing {ct : Table (Option (List Bit))} {before : List Byte} {c : Byte}
    (h : ∀ d ∈ before, (Table.get ct d).isSome) (hc : Table.get ct c = none) (i : Nat) (after : List Byte) :
    encodeSeq ct i (before ++ c :: after) = .error (i + before.length) := by
  rw [encodeSeq_append h, encodeSeq_cons_of_none hc]
  rfl

/-! ### The command -/

/-- ENCODE with a code for every symbol of the input completes with the codes in input order. -/
theorem exec_encode_of_codes {s : State} (herr : s.err = false)
    (h : ∀ i, i < s.symIn.len → (Table.get s.ct (s.symInAt i)).isSome) :
    ∃ t, exec .encode s = .next t ∧ Completed t ∧ t.bitOut = s.symInSeq.flatMap (codeOf s.ct) := by
  have hseq := encodeSeq_of_codes (ct := s.ct) (l := s.symInSeq) (by simpa [State.symInSeq] using h) 0
  have hbody : commandBody .encode (s.setFlag .done false) =
      .completed ((s.setFlag .done false).writeBitOut (s.symInSeq.flatMap (codeOf s.ct))) := by
    simp [commandBody, encodeBody, hseq]
  refine ⟨_, exec_of_ok .encode s herr, ?_⟩
  rw [hbody]
  simp [Completed, herr]

/-- The sequence in SYM_IN, split at an index below its length. -/
theorem State.symInSeq_split (s : State) {i : Nat} (h : i < s.symIn.len) :
    s.symInSeq = s.symInSeq.take i ++ s.symInAt i :: s.symInSeq.drop (i + 1) := by
  have hi : i < s.symInSeq.length := by rwa [s.length_symInSeq]
  calc s.symInSeq
    _ = s.symInSeq.take i ++ s.symInSeq.drop i := (List.take_append_drop i _).symm
    _ = _ := by rw [List.drop_eq_getElem_cons hi, s.getElem_symInSeq i hi]

/-- Settles O30: the loop goes through the coded symbols before the index and raises there. -/
theorem encodeOfASymbolWithoutACodeIsAContractViolation :
    Obligations.EncodeOfASymbolWithoutACodeIsAContractViolation := by
  intro s i herr hi hnone hbefore
  have hcoded : ∀ c ∈ s.symInSeq.take i, (Table.get s.ct c).isSome := by
    intro c hc
    obtain ⟨j, hj, rfl⟩ := List.mem_take_iff_getElem.mp hc
    rw [s.getElem_symInSeq]
    exact hbefore j (by omega)
  have hseq : encodeSeq s.ct 0 s.symInSeq = .error i := by
    rw [s.symInSeq_split hi, encodeSeq_of_missing hcoded hnone]
    simp [hi.le]
  have hbody : commandBody .encode (s.setFlag .done false) =
      .raised .contractViolation i (s.setFlag .done false) := by
    simp [commandBody, encodeBody, hseq]
  refine ⟨_, exec_of_ok .encode s herr, ?_⟩
  rw [hbody]
  exact (errorEntered_errorEntry _ _ _).of_setFlag_done

/-- Settles O31: with no symbol to look up, the codes in input order are the empty output. -/
theorem encodeOfAnEmptyInput : Obligations.EncodeOfAnEmptyInput := by
  intro s herr hlen
  obtain ⟨t, hexec, hdone, hout⟩ := exec_encode_of_codes herr (by simp [hlen])
  have hnil : s.symInSeq = [] := List.eq_nil_of_length_eq_zero (by rw [s.length_symInSeq, hlen])
  exact ⟨t, hexec, hdone, by rw [hout, hnil, List.flatMap_nil]⟩

/-- Settles O32: the one valid code is `[0]` (10_state.md R17 (c)), and each symbol writes it. -/
theorem encodeOfALoneSymbolIsAllZeros : Obligations.EncodeOfALoneSymbolIsAllZeros := by
  intro s c herr hcodes hvalid hin
  obtain ⟨-, -, hlone, -⟩ := codeTableLaws s hcodes (by simp [hvalid])
  have hc : Table.get s.ct c = some [false] := hlone c hvalid
  obtain ⟨t, hexec, hdone, hout⟩ := exec_encode_of_codes herr fun i hi => by simp [hin i hi, hc]
  have hseq : s.symInSeq = List.replicate s.symIn.len c :=
    List.eq_replicate_iff.mpr ⟨s.length_symInSeq, by simpa [State.symInSeq] using hin⟩
  refine ⟨t, hexec, hdone, ?_⟩
  rw [hout, hseq, List.flatMap_replicate, codeOf_of_some hc, List.flatten_replicate_singleton]

/-! ### The length of the output (43_encode.md R111) -/

/-- Over a list that holds every value once, a sum along a sequence is the sum of occurrences times value. -/
theorem sum_map_eq_sum_map_count_mul {α : Type} [DecidableEq α] {all : List α} (hnodup : all.Nodup)
    (hall : ∀ a, a ∈ all) (f : α → Nat) (l : List α) :
    (l.map f).sum = (all.map fun a => l.count a * f a).sum :=
  calc (l.map f).sum
    _ = ∑ a ∈ l.toFinset, l.count a * f a := by simp [Finset.sum_list_map_count]
    _ = ∑ a ∈ all.toFinset, l.count a * f a :=
      Finset.sum_subset (fun a _ => List.mem_toFinset.mpr (hall a)) fun a _ ha => by
        rw [List.count_eq_zero_of_not_mem (mt List.mem_toFinset.mpr ha), Nat.zero_mul]
    _ = (all.map fun a => l.count a * f a).sum := List.sum_toFinset _ hnodup

/-- Settles O29: the loop gives the codes in input order, and their lengths are summed symbol by symbol. -/
theorem encodeConcatenatesTheCodes : Obligations.EncodeConcatenatesTheCodes := by
  intro s herr h
  obtain ⟨t, hexec, hdone, hout⟩ := exec_encode_of_codes herr h
  refine ⟨t, hexec, hdone, ?_, ?_⟩
  · rw [hout, State.symInSeq, List.flatMap_map]
  · rw [hout, List.length_flatMap]
    exact sum_map_eq_sum_map_count_mul nodup_allSymbols mem_allSymbols _ _

end Sys2Proof.Machine
end
